-- ==== Sys2Proof/Word.lean ====
section
/-!
DEFINITION. The value types of the core (R15 to R17): bytes, 32-bit port words and 64-bit permutation words.
No value is signed.
-/

namespace Sys2Proof

/-- `u8`, an unsigned 8-bit value (R17). -/
abbrev Byte := BitVec 8

/-- A word of the command port or of the response port (R15). -/
abbrev Word := BitVec 32

/-- `w64`, an unsigned 64-bit word of the permutation (R17). Its `+` is addition modulo 2^64 (R7, R18). -/
abbrev W64 := BitVec 64

end Sys2Proof
end

