-- ==== Sys2Proof/Syntax.lean ====
section
/-!
DEFINITION. The commands of the opcode map (R77, spec/opcode_table.json), and the two forms a host writes above
them: the assembly line (R85) and the pseudo-operation (R87).
-/

namespace Sys2Proof

/-- The command set: one constructor per row of the opcode map (R77). Operands stand at the widths of their
forms: the rate form is 16 bits (R73), the byte form 8 bits (R74), the no-operand form has none (R75). -/
inductive Instr where
  /-- `CONSTRUCT rate` (R122); every value 0..65535 can be encoded (R73). -/
  | construct (rate : BitVec 16)
  /-- `ABSORB b` (R123). -/
  | absorb (b : Byte)
  /-- `SQUEEZE` (R124). -/
  | squeeze
  /-- `ENCRYPT p`, p a plaintext byte (R125). -/
  | encrypt (p : Byte)
  /-- `DECRYPT c`, c a ciphertext byte (R126). -/
  | decrypt (c : Byte)
  /-- `PAD` (R128). -/
  | pad
  /-- `SUM` (R130). -/
  | sum
  /-- `RESET`, the command (R132); not the rst input. -/
  | reset
  /-- `SAVE` (R150). -/
  | save
  /-- `RESTORE` (R151). -/
  | restore
  /-- `SIZE` (R152). -/
  | size
  /-- `BLOCKSIZE` (R153). -/
  | blocksize
  /-- `STATUS` (R154). -/
  | status
  deriving DecidableEq, Repr

/-- The mnemonics of the opcode map (R77): a command without its operand. -/
inductive Mnemonic where
  | construct | absorb | squeeze | encrypt | decrypt | pad | sum | reset | save | restore | size | blocksize | status
  deriving DecidableEq, Repr

/-- The operand forms of R73 to R75. -/
inductive Form where
  /-- ARG is a 16-bit rate (R73). -/
  | rate
  /-- ARG[15:8] is 0 and ARG[7:0] is the data byte (R74). -/
  | byte
  /-- ARG is 0 (R75). -/
  | noOperand
  deriving DecidableEq, Repr

/-- The mnemonic of a command. -/
def Instr.mnemonic : Instr → Mnemonic
  | .construct _ => .construct
  | .absorb _ => .absorb
  | .squeeze => .squeeze
  | .encrypt _ => .encrypt
  | .decrypt _ => .decrypt
  | .pad => .pad
  | .sum => .sum
  | .reset => .reset
  | .save => .save
  | .restore => .restore
  | .size => .size
  | .blocksize => .blocksize
  | .status => .status

/-- The form column of the opcode map (R77). -/
def Mnemonic.form : Mnemonic → Form
  | .construct => .rate
  | .absorb | .encrypt | .decrypt => .byte
  | .squeeze | .pad | .sum | .reset | .save | .restore | .size | .blocksize | .status => .noOperand

/-- A line of assembly as written (R85): a mnemonic and, where one is given, a number. The number is an `Int`,
since a host may ask for any rate, a negative one too (R73, D25). -/
structure AsmLine where
  mnemonic : Mnemonic
  operand : Option Int
  deriving DecidableEq, Repr

/-- The host-side pseudo-operations of R87. None is a hardware command: each expands into commands. A buffer form
carries the length of its destination too, as the host passes min(len(dst), len(src)) bytes (R87, R183). -/
inductive PseudoOp where
  /-- `WRITE b0,...,bn-1`. -/
  | write (bytes : List Byte)
  /-- `READ n`. -/
  | read (n : Nat)
  /-- `ENCBUF p0,...` into a destination of `dstLen` bytes. -/
  | encbuf (dstLen : Nat) (src : List Byte)
  /-- `DECBUF c0,...` into a destination of `dstLen` bytes. -/
  | decbuf (dstLen : Nat) (src : List Byte)
  /-- `SUMP prefix`: the host puts the bytes of `front` before the digest. -/
  | sump (front : List Byte)
  /-- `CLONE`: park the live context in the one slot (R88). -/
  | clone
  /-- `AUTH_INIT rate, key`. -/
  | authInit (rate : BitVec 16) (key : List Byte)
  /-- `AUTHENTICATE msg`. -/
  | authenticate (msg : List Byte)
  /-- `AUTH_RESET`. -/
  | authReset
  /-- `ENC_APPLY src`: `ENCBUF src` through a stream-cipher adapter. -/
  | encApply (dstLen : Nat) (src : List Byte)
  /-- `DEC_APPLY src`: `DECBUF src` through a stream-cipher adapter. -/
  | decApply (dstLen : Nat) (src : List Byte)
  deriving DecidableEq, Repr

end Sys2Proof
end

