-- ==== Sys2Proof/WellFormed.lean ====
section
/-!
DEFINITION. Which assembly lines are well formed, and the command each stands for (R85, R73, D25). An `Instr`
carries its operand at the width of its form (R73 to R75), so every `Instr` is well formed by its type; the
checks stand where an operand is still a number the host wrote.
-/

namespace Sys2Proof

/-- The values an operand of a form may have: "a rate outside 0..65535 or a byte outside 0..255 … does not fit its
field" (R85), and a no-operand form has no operand at all (R75). -/
def Form.operandFits : Form → Option Int → Bool
  | .rate, some n => decide (0 ≤ n ∧ n ≤ 65535)
  | .byte, some n => decide (0 ≤ n ∧ n ≤ 255)
  | .noOperand, none => true
  | .rate, none | .byte, none | .noOperand, some _ => false

/-- The assembler accepts the line (R85). -/
def AsmLine.wellFormed (l : AsmLine) : Bool := l.mnemonic.form.operandFits l.operand

/-- The command of a mnemonic with operand number `n`, the operand cut to its field. -/
def Mnemonic.withOperand (m : Mnemonic) (n : Int) : Instr :=
  match m with
  | .construct => .construct (BitVec.ofInt 16 n)
  | .absorb => .absorb (BitVec.ofInt 8 n)
  | .squeeze => .squeeze
  | .encrypt => .encrypt (BitVec.ofInt 8 n)
  | .decrypt => .decrypt (BitVec.ofInt 8 n)
  | .pad => .pad
  | .sum => .sum
  | .reset => .reset
  | .save => .save
  | .restore => .restore
  | .size => .size
  | .blocksize => .blocksize
  | .status => .status

/-- The command a line stands for; none where the assembler refuses the line (R85). -/
def AsmLine.toInstr (l : AsmLine) : Option Instr :=
  if l.wellFormed then some (l.mnemonic.withOperand (l.operand.getD 0)) else none

/-- The line that names a command: what the assembler reads back. -/
def Instr.toLine : Instr → AsmLine
  | .construct rate => ⟨.construct, some rate.toNat⟩
  | .absorb b => ⟨.absorb, some b.toNat⟩
  | .squeeze => ⟨.squeeze, none⟩
  | .encrypt p => ⟨.encrypt, some p.toNat⟩
  | .decrypt c => ⟨.decrypt, some c.toNat⟩
  | .pad => ⟨.pad, none⟩
  | .sum => ⟨.sum, none⟩
  | .reset => ⟨.reset, none⟩
  | .save => ⟨.save, none⟩
  | .restore => ⟨.restore, none⟩
  | .size => ⟨.size, none⟩
  | .blocksize => ⟨.blocksize, none⟩
  | .status => ⟨.status, none⟩

end Sys2Proof
end

