-- ==== Sys2Proof/Decode.lean ====
section
/-!
DEFINITION. Decoding a command word (R70 to R76, R82) and, after it, encoding a command (R77). Decoding is total:
every 32-bit word is a command or is rejected by the first check of R76 it fails.
-/

namespace Sys2Proof

/-- The checks of R76, in the order they run. A word that fails one raises ILLEGAL (R175). -/
inductive DecodeReject where
  /-- OPC is 0x00 or 0x0E..0xFF (R71, R82). -/
  | reservedOpcode
  /-- RSV is not 0 (R72). -/
  | reservedField
  /-- ARG[15:8] of a byte form is not 0 (R74). -/
  | byteFormHighArg
  /-- ARG of a no-operand form is not 0 (R75). -/
  | noOperandFormArg
  deriving DecidableEq, Repr

/-- OPC, cmd[31:24] (R70). -/
def opcField (w : Word) : BitVec 8 := w.extractLsb' 24 8

/-- RSV, cmd[23:16] (R70). -/
def rsvField (w : Word) : BitVec 8 := w.extractLsb' 16 8

/-- ARG, cmd[15:0] (R70). -/
def argField (w : Word) : BitVec 16 := w.extractLsb' 0 16

/-- The command an opcode names (R77); none for a reserved opcode (R71, R82). -/
def mnemonicOfOpcode (opc : BitVec 8) : Option Mnemonic :=
  match opc.toNat with
  | 0x01 => some .construct
  | 0x02 => some .absorb
  | 0x03 => some .squeeze
  | 0x04 => some .encrypt
  | 0x05 => some .decrypt
  | 0x06 => some .pad
  | 0x07 => some .sum
  | 0x08 => some .reset
  | 0x09 => some .save
  | 0x0A => some .restore
  | 0x0B => some .size
  | 0x0C => some .blocksize
  | 0x0D => some .status
  | _ => none

/-- The byte form (R74): ARG[15:8] must be 0, ARG[7:0] is the data byte. -/
def decodeByteForm (arg : BitVec 16) (mk : Byte → Instr) : Except DecodeReject Instr :=
  if arg.extractLsb' 8 8 = 0 then .ok (mk (arg.extractLsb' 0 8)) else .error .byteFormHighArg

/-- The no-operand form (R75): ARG must be 0. -/
def decodeNoOperandForm (arg : BitVec 16) (i : Instr) : Except DecodeReject Instr :=
  if arg = 0 then .ok i else .error .noOperandFormArg

/-- The operand checks and the command of a named opcode (R73 to R76). -/
def decodeArg (m : Mnemonic) (arg : BitVec 16) : Except DecodeReject Instr :=
  match m with
  | .construct => .ok (.construct arg)
  | .absorb => decodeByteForm arg .absorb
  | .squeeze => decodeNoOperandForm arg .squeeze
  | .encrypt => decodeByteForm arg .encrypt
  | .decrypt => decodeByteForm arg .decrypt
  | .pad => decodeNoOperandForm arg .pad
  | .sum => decodeNoOperandForm arg .sum
  | .reset => decodeNoOperandForm arg .reset
  | .save => decodeNoOperandForm arg .save
  | .restore => decodeNoOperandForm arg .restore
  | .size => decodeNoOperandForm arg .size
  | .blocksize => decodeNoOperandForm arg .blocksize
  | .status => decodeNoOperandForm arg .status

/-- Decode a command word (R76): the first check that fails decides. -/
def decode (w : Word) : Except DecodeReject Instr :=
  match mnemonicOfOpcode (opcField w) with
  | none => .error .reservedOpcode
  | some m => if rsvField w = 0 then decodeArg m (argField w) else .error .reservedField

/-- The opcode of a command (R77). -/
def opcodeOf : Mnemonic → BitVec 8
  | .construct => 0x01
  | .absorb => 0x02
  | .squeeze => 0x03
  | .encrypt => 0x04
  | .decrypt => 0x05
  | .pad => 0x06
  | .sum => 0x07
  | .reset => 0x08
  | .save => 0x09
  | .restore => 0x0A
  | .size => 0x0B
  | .blocksize => 0x0C
  | .status => 0x0D

/-- The operand field of a command (R73 to R75). -/
def argOf : Instr → BitVec 16
  | .construct rate => rate
  | .absorb b => b.setWidth 16
  | .encrypt p => p.setWidth 16
  | .decrypt c => c.setWidth 16
  | .squeeze | .pad | .sum | .reset | .save | .restore | .size | .blocksize | .status => 0

/-- The command word of a command (R70, R77): OPC, then RSV = 0, then ARG. -/
def encode (i : Instr) : Word := opcodeOf i.mnemonic ++ (0 : BitVec 8) ++ argOf i

/-- What the decoder reads from a table row's word `w` of `nbits` bits. A command is one whole 32-bit word on the
command port (R57, R70, R84), so it has no byte order, and no command is longer than 32 bits (log 18). -/
def decodeTableWord (nbits w : Nat) : Option Instr :=
  if nbits ≤ 32 then
    match decode (BitVec.ofNat 32 (w % 2 ^ nbits)) with
    | .ok i => some i
    | .error _ => none
  else none

end Sys2Proof
end

