-- ==== Sys2Proof/Config.lean ====
section
/-!
DEFINITION. What the source leaves open (92_eei_decisions.md D10, D12, D27) and the types of the permutation's data
(R8, R17, R96).
-/

namespace Sys2Proof

/-- A sub-block (s0, s1, s2, s3): four w64 words (R17). -/
structure SubBlock where
  s0 : W64
  s1 : W64
  s2 : W64
  s3 : W64
  deriving DecidableEq, Repr, Inhabited

/-- A block as an 8-tuple of sub-blocks I0..I7 (R8, R17, R38). -/
structure SubBlocks where
  i0 : SubBlock
  i1 : SubBlock
  i2 : SubBlock
  i3 : SubBlock
  i4 : SubBlock
  i5 : SubBlock
  i6 : SubBlock
  i7 : SubBlock
  deriving DecidableEq, Repr, Inhabited

/-- The additive constant tuple (c0..c7) of one mix (R96, R102). -/
structure MixConsts where
  c0 : W64
  c1 : W64
  c2 : W64
  c3 : W64
  c4 : W64
  c5 : W64
  c6 : W64
  c7 : W64
  deriving DecidableEq, Repr, Inhabited

/-- The two constant tables of R96: `cq r` is ARX_CQ(r) and `mc r j` is ARX_MC(r, j). No relation between the two is
fixed (R97). -/
structure ArxTable where
  cq : Fin 6 → SubBlock
  mc : Fin 6 → Fin 8 → MixConsts
  deriving Inhabited

/-- The right part of rotl for an amount above 32 (R14, D10): the spec's `ROTL_OVERSHIFT`. -/
inductive OverShift where
  /-- The count 32 - s is an unsigned 64-bit value of at least 64, and the right part is 0: the spec's choice. -/
  | zero
  /-- The count is taken modulo 64: the alternative D10 names. -/
  | mod64
  deriving DecidableEq, Repr

/-- The hardware's constant tables: fixed, read-only, their values not in the source (R12, R39, R96, D12, N9). It has
no body, so a claim proved of the machine holds for every table (log 4). -/
opaque Config.arx : ArxTable

/-- `CMD_LATENCY(command, permutes)` (R206, D27): open, and no rule depends on it (log 8). -/
opaque Config.cmdLatency : Instr → Bool → Nat

/-- `PERM_LATENCY` (R206, D27): open, and no rule depends on it (log 8). -/
opaque Config.permLatency : Nat

end Sys2Proof
end

