-- ==== Sys2Proof/Machine/State.lean ====
section
/-!
DEFINITION. The state of the core (R26), its two ports (R186) and the host that drives them, as plain data; the
reasons a step could stop; and the state after hardware reset (R195).
-/

namespace Sys2Proof.Machine

/-- A 256-byte array (R50): cells in rising address order, every address below 256, no cell of value 0x00. An
address without a cell reads as 0x00, the reset contents of both arrays (R195; log 10). -/
abbrev Memory := List Host.Cell

/-- The level of the host's signals on one cycle (R186). -/
structure HostCycle where
  /-- rst: hardware reset. -/
  rst : Bool
  /-- cmd_valid: the host offers its next command word, if it has one. -/
  cmdValid : Bool
  /-- rsp_ready: the host accepts a response word. -/
  rspReady : Bool
  deriving DecidableEq, Repr

/-- The kinds of error (R176). -/
inductive ErrorKind where
  /-- CONSTRUCT with a rate outside 1..255 (R171). -/
  | configError
  /-- A context command while VALID = 0 (R172). -/
  | notConfigured
  /-- RESTORE while CK_VALID = 0 (R174). -/
  | noCheckpoint
  /-- A malformed command word (R175). -/
  | illegal
  deriving DecidableEq, Repr

/-- The status of a response (R79). -/
inductive Status where
  | ok
  | error (e : ErrorKind)
  deriving DecidableEq, Repr

/-- The machine: the core's registers (R26), its response port, and the host beside it. -/
structure State where
  /-- VALID (R28). -/
  valid : Bool
  /-- RATE (R29). -/
  rate : BitVec 8
  /-- CURSOR (R30). -/
  cursor : BitVec 8
  /-- BLK[0..255] (R31). -/
  blk : Memory
  /-- CK_VALID (R33). -/
  ckValid : Bool
  /-- CK_RATE (R34). -/
  ckRate : BitVec 8
  /-- CK_CURSOR (R34). -/
  ckCursor : BitVec 8
  /-- CK_BLK[0..255] (R34). -/
  ckBlk : Memory
  /-- ERRLOG (R35). -/
  errlog : BitVec 4
  /-- The response words the core holds, the one it offers first (R64, R187). -/
  rspOut : List Word
  /-- The command words the host has yet to send, the one it offers first (R23, R63). -/
  cmdIn : List Word
  /-- The host's signal levels from this cycle on; after the last, the host offers and accepts (log 1). -/
  host : List HostCycle
  /-- The response words that have crossed the response port, the earliest first: the host's record (log 1). -/
  received : List Word
  deriving DecidableEq, Repr

/-- The faults of the core: none. "No other failure exists" beside the error responses (R177), and those are "defined
outputs, not faults" (R184; log 12). -/
inductive Fault where
  deriving DecidableEq, Repr

/-- The refusals of the model. -/
inductive Refusal where
  /-- An instruction whose meaning is not written. Raised by an arm of `exec` only, and no arm raises it: every
  command has its meaning. Safe. -/
  | notModelled (mnemonic : String)
  deriving DecidableEq, Repr

/-- The state after hardware reset (R195): every element 0, the response port empty, the command port idle. The host
has sent, said and taken nothing yet (log 3). -/
def State.reset : State where
  valid := false
  rate := 0
  cursor := 0
  blk := []
  ckValid := false
  ckRate := 0
  ckCursor := 0
  ckBlk := []
  errlog := 0
  rspOut := []
  cmdIn := []
  host := []
  received := []

end Sys2Proof.Machine
end

