-- ==== Sys2Proof/Machine/Memory.lean ====
section
/-!
DEFINITION. The two byte arrays (R50): reading and writing one byte, the canonical form, and the two views of a
block, as bytes and as big-endian words in row-major (sub-block, word) order (R52 to R54).
-/

namespace Sys2Proof.Machine

/-- Every cell from address `lo` on stands in rising order, below 256, and is not the byte an unlisted address has. -/
def Memory.wfFrom (lo : Nat) : Memory → Bool
  | [] => true
  | (a, v) :: rest => decide (lo ≤ a) && decide (a < 256) && decide (v ≠ 0) && Memory.wfFrom (a + 1) rest

/-- The canonical form: equal arrays are equal lists. -/
def Memory.wf (m : Memory) : Bool := Memory.wfFrom 0 m

/-- The byte at an address; an unlisted address reads as 0x00 (R195). -/
def Memory.read (m : Memory) (a : Nat) : Byte :=
  match m with
  | [] => 0
  | (k, v) :: rest => if k = a then v else Memory.read rest a

/-- A cell before the others, unless its byte is the one an unlisted address has. -/
def Memory.cons (a : Nat) (v : Byte) (rest : Memory) : Memory :=
  if v = 0 then rest else (a, v) :: rest

/-- Write one byte, keeping the canonical form. -/
def Memory.write (m : Memory) (a : Nat) (v : Byte) : Memory :=
  match m with
  | [] => Memory.cons a v []
  | (k, u) :: rest =>
    if a < k then Memory.cons a v ((k, u) :: rest)
    else if a = k then Memory.cons a v rest
    else (k, u) :: Memory.write rest a v

/-- The array that holds `bytes` from address `start` on and 0x00 elsewhere. -/
def Memory.ofBytesFrom (start : Nat) : List Byte → Memory
  | [] => []
  | b :: bs => Memory.cons start b (Memory.ofBytesFrom (start + 1) bs)

/-- The array that holds `bytes` from address 0 on. -/
def Memory.ofBytes (bytes : List Byte) : Memory := Memory.ofBytesFrom 0 bytes

/-- The first `n` bytes, lowest address first. -/
def Memory.firstBytes (m : Memory) (n : Nat) : List Byte := (List.range n).map fun i => m.read i

/-- Word w of the block, from bytes 8w to 8w+7, byte 8w the most significant (R52). -/
def Memory.wordAt (m : Memory) (w : Nat) : W64 :=
  ((m.read (8 * w)).setWidth 64 <<< 56) ||| ((m.read (8 * w + 1)).setWidth 64 <<< 48) |||
  ((m.read (8 * w + 2)).setWidth 64 <<< 40) ||| ((m.read (8 * w + 3)).setWidth 64 <<< 32) |||
  ((m.read (8 * w + 4)).setWidth 64 <<< 24) ||| ((m.read (8 * w + 5)).setWidth 64 <<< 16) |||
  ((m.read (8 * w + 6)).setWidth 64 <<< 8) ||| (m.read (8 * w + 7)).setWidth 64

/-- Sub-block i: words 4i to 4i+3 (R38, R53). -/
def Memory.subBlockAt (m : Memory) (i : Nat) : SubBlock :=
  ⟨m.wordAt (4 * i), m.wordAt (4 * i + 1), m.wordAt (4 * i + 2), m.wordAt (4 * i + 3)⟩

/-- The block as 8 sub-blocks (R53, R108). -/
def Memory.toSubBlocks (m : Memory) : SubBlocks :=
  ⟨m.subBlockAt 0, m.subBlockAt 1, m.subBlockAt 2, m.subBlockAt 3,
   m.subBlockAt 4, m.subBlockAt 5, m.subBlockAt 6, m.subBlockAt 7⟩

/-- The bytes of a word, the most significant first: byte k is W[63-8k : 56-8k] (R52). -/
def wordBytes (w : W64) : List Byte :=
  [w.extractLsb' 56 8, w.extractLsb' 48 8, w.extractLsb' 40 8, w.extractLsb' 32 8,
   w.extractLsb' 24 8, w.extractLsb' 16 8, w.extractLsb' 8 8, w.extractLsb' 0 8]

/-- The words of a sub-block in order (R53). -/
def SubBlock.words (s : SubBlock) : List W64 := [s.s0, s.s1, s.s2, s.s3]

/-- The 32 words of the block, W[4i+k] = S[i][k] (R38, R108). -/
def SubBlocks.words (s : SubBlocks) : List W64 :=
  SubBlock.words s.i0 ++ SubBlock.words s.i1 ++ SubBlock.words s.i2 ++ SubBlock.words s.i3 ++
  SubBlock.words s.i4 ++ SubBlock.words s.i5 ++ SubBlock.words s.i6 ++ SubBlock.words s.i7

/-- The block written back from its sub-blocks (R52, R108). -/
def Memory.ofSubBlocks (s : SubBlocks) : Memory := Memory.ofBytes (SubBlocks.words s |>.flatMap wordBytes)

end Sys2Proof.Machine
end

