-- ==== Sys2Proof/Machine/Arx.lean ====
section
/-!
DEFINITION. The ARX permutation pipeline (40_arx_permutation.md): rotation, mix, the two chaining passes, the six
rounds and the function on a whole block. The constant tables are an argument throughout (R97).
-/

namespace Sys2Proof.Machine

/-- `ROTL_OVERSHIFT`: the spec's choice is ZERO (R14, D10; log 5). -/
def rotlOvershift : OverShift := .zero

/-- `shr(a, n)`: the logical right shift by an unsigned count, 0 for a count of 64 or more (R18). -/
def shr (a : W64) (n : Nat) : W64 := if 64 ≤ n then 0 else a >>> n

/-- The complement count (32 - s) mod 2^64 (R18, R99). -/
def complementCount (s : Nat) : Nat := ((32 : W64) - BitVec.ofNat 64 s).toNat

/-- The right part of rotl in either over-shift mode (R99, D10). -/
def rotlRight (mode : OverShift) (v : W64) (s : Nat) : W64 :=
  match mode with
  | .zero => shr v (complementCount s)
  | .mod64 => shr v (complementCount s % 64)

/-- rotl in either over-shift mode (R98, R99, D10): "the complement shift is computed against 32, not 64". -/
def rotlMode (mode : OverShift) (v : W64) (s : Nat) : W64 := (v <<< s) ||| rotlRight mode v s

/-- rotl (R99). It is no rotation (R98). -/
def rotl (v : W64) (s : Nat) : W64 := rotlMode rotlOvershift v s

/-- mix(X, Y) under the constants c (R102): the X side and the Y side each replace their four values by their XOR
with the four's XOR, and the output index is rotated by one (R104). -/
def mix (c : MixConsts) (x y : SubBlock) : SubBlock :=
  let t6 := rotl (c.c0 + x.s0 + x.s1 + x.s2) 7
  let t7 := rotl (c.c1 + x.s0 + x.s1 + x.s3) 19
  let t4 := rotl (c.c2 + x.s0 + x.s2 + x.s3) 31
  let t5 := rotl (c.c3 + x.s1 + x.s2 + x.s3) 53
  let r := t4 ^^^ t5 ^^^ t6 ^^^ t7
  let t8 := rotl (c.c4 + y.s0 + y.s2 + y.s3) 11
  let t9 := rotl (c.c5 + y.s1 + y.s2 + y.s3) 23
  let t10 := rotl (c.c6 + y.s0 + y.s1 + y.s2) 37
  let t11 := rotl (c.c7 + y.s0 + y.s1 + y.s3) 59
  let q := t8 ^^^ t9 ^^^ t10 ^^^ t11
  { s0 := (t5 ^^^ r) + (t9 ^^^ q)
    s1 := (t6 ^^^ r) + (t10 ^^^ q)
    s2 := (t7 ^^^ r) + (t11 ^^^ q)
    s3 := (t4 ^^^ r) + (t8 ^^^ q) }

/-- forward(r, I) (R105): the chain value is the X operand, from index 0 up. -/
def forward (t : ArxTable) (r : Fin 6) (i : SubBlocks) : SubBlocks :=
  let j0 := mix (t.mc r 0) (t.cq r) i.i0
  let j1 := mix (t.mc r 1) j0 i.i1
  let j2 := mix (t.mc r 2) j1 i.i2
  let j3 := mix (t.mc r 3) j2 i.i3
  let j4 := mix (t.mc r 4) j3 i.i4
  let j5 := mix (t.mc r 5) j4 i.i5
  let j6 := mix (t.mc r 6) j5 i.i6
  let j7 := mix (t.mc r 7) j6 i.i7
  ⟨j0, j1, j2, j3, j4, j5, j6, j7⟩

/-- backward(r, I) (R106): the chain value is the Y operand, from index 7 down. -/
def backward (t : ArxTable) (r : Fin 6) (i : SubBlocks) : SubBlocks :=
  let j7 := mix (t.mc r 7) i.i7 (t.cq r)
  let j6 := mix (t.mc r 6) i.i6 j7
  let j5 := mix (t.mc r 5) i.i5 j6
  let j4 := mix (t.mc r 4) i.i4 j5
  let j3 := mix (t.mc r 3) i.i3 j4
  let j2 := mix (t.mc r 2) i.i2 j3
  let j1 := mix (t.mc r 1) i.i1 j2
  let j0 := mix (t.mc r 0) i.i0 j1
  ⟨j0, j1, j2, j3, j4, j5, j6, j7⟩

/-- The six rounds, even ones forward and odd ones backward (R9, R107). -/
def rounds (t : ArxTable) (s : SubBlocks) : SubBlocks :=
  backward t 5 (forward t 4 (backward t 3 (forward t 2 (backward t 1 (forward t 0 s)))))

/-- Perm(block) (R108), under the constant tables `t`: a total function of the 256 bytes and the tables alone
(R95, R109), over the whole block whatever RATE is (R111). -/
def perm (t : ArxTable) (b : Memory) : Memory := Memory.ofSubBlocks (rounds t b.toSubBlocks)

end Sys2Proof.Machine
end

