-- ==== Sys2Proof/Machine/Operands.lean ====
section
/-!
DEFINITION. Operand and result forms: the rate a CONSTRUCT may ask for (R10, R73), the 16-bit DATA of a byte, a rate
and a capacity (R80), and the response word (R78).
-/

namespace Sys2Proof.Machine

/-- `zext_16` of a byte (R80). -/
def zext16 (b : Byte) : BitVec 16 := b.setWidth 16

/-- CONSTRUCT accepts the rate: not 0 and below 256 (R10, R122). -/
def rateAccepted (rate : BitVec 16) : Bool := decide (1 ≤ rate.toNat ∧ rate.toNat ≤ 255)

/-- `rate[7:0]`, what RATE takes (R122). -/
def rateRegister (rate : BitVec 16) : BitVec 8 := rate.extractLsb' 0 8

/-- The capacity, 256 - RATE, as DATA (R80, R153). -/
def capacityData (rate : BitVec 8) : BitVec 16 := 256 - zext16 rate

/-- The status code of an error (R79). -/
def ErrorKind.code : ErrorKind → BitVec 8
  | .configError => 0x01
  | .notConfigured => 0x02
  | .noCheckpoint => 0x03
  | .illegal => 0x04

/-- The status code (R79). -/
def Status.code : Status → BitVec 8
  | .ok => 0x00
  | .error e => e.code

/-- The response word: STATUS[31:24], RSV[23:16] = 0x00, DATA[15:0] (R78). -/
def responseWord (st : Status) (data : BitVec 16) : Word := st.code ++ (0 : BitVec 8) ++ data

/-- STATUS of a response word (R78). -/
def responseStatus (w : Word) : BitVec 8 := w.extractLsb' 24 8

/-- RSV of a response word (R78). -/
def responseRsv (w : Word) : BitVec 8 := w.extractLsb' 16 8

/-- DATA of a response word (R78). -/
def responseData (w : Word) : BitVec 16 := w.extractLsb' 0 16

end Sys2Proof.Machine
end

