-- ==== Sys2Proof/Machine/Flags.lean ====
section
/-!
DEFINITION. The flags (R37): the sticky error log (R35) and the STATUS view over VALID, CK_VALID and ERRLOG (R36).
-/

namespace Sys2Proof.Machine

/-- The ERRLOG bit of an error: bit code - 1 (R35, R173). -/
def ErrorKind.logBit (e : ErrorKind) : BitVec 4 := 1 <<< (e.code.toNat - 1)

/-- ERRLOG after an error of kind `e`: its bit set, every other bit as it was (R35). -/
def logError (log : BitVec 4) (e : ErrorKind) : BitVec 4 := log ||| e.logBit

/-- The STATUS view: `ERRLOG << 4 | CK_VALID << 1 | VALID` (R36, R154). -/
def statusView (s : State) : BitVec 16 :=
  (s.errlog.setWidth 16 <<< 4) ||| ((BitVec.ofBool s.ckValid).setWidth 16 <<< 1) ||| (BitVec.ofBool s.valid).setWidth 16

end Sys2Proof.Machine
end

