-- ==== Sys2Proof/Machine/Ops.lean ====
section
/-!
DEFINITION. The operations the commands share: answering (R21), raising an error (R173, the one exception
primitive), the state check (R172), the byte at the cursor (R58), the trigger check (R120) and the PAD of R128,
clearing the live context, and hardware reset (R195).
-/

namespace Sys2Proof.Machine

/-- `respond(st, d)`: emit one response word, after those emitted before it (R21, R64). -/
def State.respond (s : State) (st : Status) (data : BitVec 16) : State :=
  { s with rspOut := s.rspOut ++ [responseWord st data] }

/-- One OK response a byte, in order (R130). -/
def State.respondBytes (s : State) (bytes : List Byte) : State :=
  { s with rspOut := s.rspOut ++ bytes.map fun b => responseWord .ok (zext16 b) }

/-- `raise E(d)` (R21, R173): set the ERRLOG bit of E, emit one response with status E and data d, change nothing
else. It is the core's whole exception entry: nothing is saved, no mode changes, no control moves, and so there is
nothing to return from (R170, R180, R181). -/
def State.raise (s : State) (e : ErrorKind) (data : BitVec 16) : State :=
  { s with errlog := logError s.errlog e }.respond (.error e) data

/-- The state check of a context command (R172): NOT_CONFIGURED(0) while VALID = 0, else `run`. -/
def State.needContext (s : State) (run : State → State) : State :=
  if s.valid then run s else s.raise .notConfigured 0

/-- `BLK <- Perm(BLK); CURSOR <- 0`, under the hardware's constants (R95, R111). -/
def State.permute (s : State) : State :=
  { s with blk := perm Config.arx s.blk, cursor := 0 }

/-- The trigger check (R120): "check then process". -/
def State.trigger (s : State) : State :=
  if s.cursor = s.rate then s.permute else s

/-- The effect of PAD (R128): permute if CURSOR > 0. -/
def State.padBlock (s : State) : State :=
  if s.cursor = 0 then s else s.permute

/-- `BLK[CURSOR]` (R20). -/
def State.byteAtCursor (s : State) : Byte := s.blk.read s.cursor.toNat

/-- `BLK[CURSOR] <- v` (R20). -/
def State.setByteAtCursor (s : State) (v : Byte) : State :=
  { s with blk := s.blk.write s.cursor.toNat v }

/-- `CURSOR <- CURSOR + 1`, in its 8 bits (R30; log 11). -/
def State.advanceCursor (s : State) : State := { s with cursor := s.cursor + 1 }

/-- `BLK[CURSOR] <- v; CURSOR <- CURSOR + 1; respond(OK, d)`: how a byte command ends (R123, R125, R126). -/
def State.finishByte (s : State) (v : Byte) (data : BitVec 16) : State :=
  (s.setByteAtCursor v).advanceCursor.respond .ok data

/-- A fresh live context of a rate: CURSOR and BLK zero (R122). -/
def State.freshContext (s : State) (rate : BitVec 8) : State :=
  { s with valid := true, rate := rate, cursor := 0, blk := [] }

/-- The live context zeroed and invalid (R132). -/
def State.clearContext (s : State) : State :=
  { s with valid := false, rate := 0, cursor := 0, blk := [] }

/-- The live context copied to the checkpoint slot (R150). -/
def State.saveContext (s : State) : State :=
  { s with ckValid := true, ckRate := s.rate, ckCursor := s.cursor, ckBlk := s.blk }

/-- The checkpoint slot copied to the live context (R151). -/
def State.restoreContext (s : State) : State :=
  { s with valid := true, rate := s.ckRate, cursor := s.ckCursor, blk := s.ckBlk }

/-- Hardware reset (R195, R196): every element of the core at its reset value, the pending responses discarded. The
host and its record are no part of the core (log 7). -/
def State.hardReset (s : State) : State :=
  { State.reset with cmdIn := s.cmdIn, host := s.host, received := s.received }

end Sys2Proof.Machine
end

