-- ==== Sys2Proof/Machine/Context.lean ====
section
/-!
DEFINITION. The checkpoint and query commands (42_context_commands.md): SAVE, RESTORE, SIZE, BLOCKSIZE and STATUS.
-/

namespace Sys2Proof.Machine

/-- SAVE (R150): a pending trigger is copied as it stands. -/
def execSave (s : State) : Host.Outcome State Fault Refusal :=
  .next (s.needContext fun s => s.saveContext.respond .ok 0)

/-- RESTORE (R151): NO_CHECKPOINT(0) while CK_VALID = 0 (R174); VALID is not required. -/
def execRestore (s : State) : Host.Outcome State Fault Refusal :=
  .next (if s.ckValid then s.restoreContext.respond .ok 0 else s.raise .noCheckpoint 0)

/-- SIZE (R152): the rate. -/
def execSize (s : State) : Host.Outcome State Fault Refusal :=
  .next (s.needContext fun s => s.respond .ok (zext16 s.rate))

/-- BLOCKSIZE (R153): the capacity. -/
def execBlocksize (s : State) : Host.Outcome State Fault Refusal :=
  .next (s.needContext fun s => s.respond .ok (capacityData s.rate))

/-- STATUS (R154): accepted whatever VALID is. -/
def execStatus (s : State) : Host.Outcome State Fault Refusal :=
  .next (s.respond .ok (statusView s))

end Sys2Proof.Machine
end

