-- ==== Sys2Proof/Machine/Sponge.lean ====
section
/-!
DEFINITION. The sponge commands (41_sponge_commands.md): CONSTRUCT, ABSORB, SQUEEZE, ENCRYPT, DECRYPT, PAD, SUM and
RESET. Every one always answers a next state: an error is a response (R184).
-/

namespace Sys2Proof.Machine

/-- CONSTRUCT rate (R122): accepted whatever VALID is; a bad rate leaves the whole state but ERRLOG as it was. -/
def execConstruct (rate : BitVec 16) (s : State) : Host.Outcome State Fault Refusal :=
  .next (if rateAccepted rate then (s.freshContext (rateRegister rate)).respond .ok 0 else s.raise .configError rate)

/-- ABSORB b (R123). -/
def execAbsorb (b : Byte) (s : State) : Host.Outcome State Fault Refusal :=
  .next (s.needContext fun s => let t := s.trigger; t.finishByte (t.byteAtCursor ^^^ b) 0)

/-- SQUEEZE (R124): BLK is not changed except by the trigger. -/
def execSqueeze (s : State) : Host.Outcome State Fault Refusal :=
  .next (s.needContext fun s => let t := s.trigger; t.advanceCursor.respond .ok (zext16 t.byteAtCursor))

/-- ENCRYPT p (R125): the answer is the post-XOR byte. -/
def execEncrypt (p : Byte) (s : State) : Host.Outcome State Fault Refusal :=
  .next (s.needContext fun s =>
    let t := s.trigger
    let new := t.byteAtCursor ^^^ p
    t.finishByte new (zext16 new))

/-- DECRYPT c (R126): the answer uses the byte before the update, and the state byte becomes c. -/
def execDecrypt (c : Byte) (s : State) : Host.Outcome State Fault Refusal :=
  .next (s.needContext fun s => let t := s.trigger; t.finishByte c (zext16 (t.byteAtCursor ^^^ c)))

/-- PAD (R128). -/
def execPad (s : State) : Host.Outcome State Fault Refusal :=
  .next (s.needContext fun s => s.padBlock.respond .ok 0)

/-- SUM (R130): the PAD, then RATE responses in index order. -/
def execSum (s : State) : Host.Outcome State Fault Refusal :=
  .next (s.needContext fun s => let t := s.padBlock; t.respondBytes (t.blk.firstBytes t.rate.toNat))

/-- RESET (R132): the live context cleared, the checkpoint slot and ERRLOG kept. -/
def execReset (s : State) : Host.Outcome State Fault Refusal :=
  .next (s.clearContext.respond .ok 0)

end Sys2Proof.Machine
end

