-- ==== Sys2Proof/Machine/Dispatch.lean ====
section
/-!
DEFINITION. The dispatch of R76: one arm per command, each a direct call of its meaning.
-/

namespace Sys2Proof.Machine

def exec (i : Instr) (s : State) : Host.Outcome State Fault Refusal :=
  match i with
  | .construct rate => Sys2Proof.Machine.execConstruct rate s
  | .absorb b => Sys2Proof.Machine.execAbsorb b s
  | .squeeze => Sys2Proof.Machine.execSqueeze s
  | .encrypt p => Sys2Proof.Machine.execEncrypt p s
  | .decrypt c => Sys2Proof.Machine.execDecrypt c s
  | .pad => Sys2Proof.Machine.execPad s
  | .sum => Sys2Proof.Machine.execSum s
  | .reset => Sys2Proof.Machine.execReset s
  | .save => Sys2Proof.Machine.execSave s
  | .restore => Sys2Proof.Machine.execRestore s
  | .size => Sys2Proof.Machine.execSize s
  | .blocksize => Sys2Proof.Machine.execBlocksize s
  | .status => Sys2Proof.Machine.execStatus s

end Sys2Proof.Machine
end

