-- ==== Sys2Proof/Machine/Sequencer.lean ====
section
/-!
DEFINITION. The sequencer and its two ports (R186, R187, R195, R196): what one step does. A step is one cycle of the
host's signals on which at most one thing happens: hardware reset, one response word crossing, or one command word
crossing and running whole (R59, R187).
-/

namespace Sys2Proof.Machine

/-- The host's levels once its list is used up: it offers what it has, accepts what it is offered, and does not
reset (R188; log 1). -/
def HostCycle.attentive : HostCycle := ⟨false, true, true⟩

/-- The host's levels on this cycle. -/
def State.hostCycle (s : State) : HostCycle := s.host.headD HostCycle.attentive

/-- This cycle of the host used up. -/
def State.nextCycle (s : State) : State := { s with host := s.host.tail }

/-- cmd_ready: the core is idle, every response of the previous command has crossed (R187). -/
def State.cmdReady (s : State) : Bool := s.rspOut.isEmpty

/-- cmd_valid: the host offers a command word (R186). -/
def State.cmdValid (s : State) : Bool := s.hostCycle.cmdValid && !s.cmdIn.isEmpty

/-- rsp_valid: the core offers a response word (R186). -/
def State.rspValid (s : State) : Bool := !s.rspOut.isEmpty

/-- rsp_data (R186). -/
def State.rspData (s : State) : Option Word := s.rspOut.head?

/-- Run a command word (R76): dispatch it, or raise ILLEGAL(0) where it does not decode (R175). -/
def runWord (w : Word) (s : State) : Host.Outcome State Fault Refusal :=
  match decode w with
  | .ok i => exec i s
  | .error _ => .next (s.raise .illegal 0)

/-- A word crosses the command port and runs. -/
def acceptCommand (s : State) : Host.Outcome State Fault Refusal :=
  match s.cmdIn with
  | [] => .next s
  | w :: rest => runWord w { s with cmdIn := rest }

/-- The word on offer crosses the response port. -/
def State.deliverResponse (s : State) : State :=
  match s.rspOut with
  | [] => s
  | r :: rest => { s with rspOut := rest, received := s.received ++ [r] }

/-- One cycle under the host's levels `c`. While a response waits, the core takes no command and only the host
accepting it lifts the hold (R187); with nothing offered the core is idle and holds its state (R191; log 6). -/
def cycleUnder (c : HostCycle) (s : State) : Host.Outcome State Fault Refusal :=
  if c.rst then .next s.hardReset
  else if s.rspValid then
    if c.rspReady then .next s.deliverResponse else .next s
  else if c.cmdValid then acceptCommand s
  else .next s

/-- One step of the machine. -/
def cycle (s : State) : Host.Outcome State Fault Refusal := cycleUnder s.hostCycle s.nextCycle

/-- The state in which the host offers the word `w` next and the core is ready for it: no reset, the host offering,
no response waiting. -/
def State.offerWord (s : State) (w : Word) : State :=
  { s with rspOut := [], cmdIn := w :: s.cmdIn, host := HostCycle.attentive :: s.host.tail }

end Sys2Proof.Machine
end

