-- ==== Sys2Proof/Machine/Step.lean ====
section
/-!
DEFINITION. The step of the machine, and how the host of this pipeline places an instruction before it. The core
fetches from no memory (R57): an instruction is a command word the host sends (R23; log 2).
-/

namespace Sys2Proof.Machine

/-- One step: one cycle of the host's signals (R186, R187). -/
def step (s : State) : Host.Outcome State Fault Refusal := cycle s

/-- `s` with the command word `w` the next to cross the command port. A command word has 32 bits (R70); the bits
above `nbits` are 0. -/
def State.withFetchWord (s : State) (nbits w : Nat) : State :=
  s.offerWord (BitVec.ofNat 32 (w % 2 ^ nbits))

end Sys2Proof.Machine
end

