-- ==== Sys2Proof/Machine/Notation.lean ====
section
/-!
DEFINITION. The two written forms of the spec: an assembly line (R85) and a response (R86), as lists of characters.
-/

namespace Sys2Proof.Machine

/-- The mnemonics as R77 spells them. -/
def spelling : Mnemonic → List Char
  | .construct => "CONSTRUCT".toList
  | .absorb => "ABSORB".toList
  | .squeeze => "SQUEEZE".toList
  | .encrypt => "ENCRYPT".toList
  | .decrypt => "DECRYPT".toList
  | .pad => "PAD".toList
  | .sum => "SUM".toList
  | .reset => "RESET".toList
  | .save => "SAVE".toList
  | .restore => "RESTORE".toList
  | .size => "SIZE".toList
  | .blocksize => "BLOCKSIZE".toList
  | .status => "STATUS".toList

/-- Every mnemonic (R77). -/
def allMnemonics : List Mnemonic :=
  [.construct, .absorb, .squeeze, .encrypt, .decrypt, .pad, .sum, .reset, .save, .restore, .size, .blocksize, .status]

/-- The mnemonic of a spelling. -/
def mnemonicOfSpelling (word : List Char) : Option Mnemonic := allMnemonics.find? fun m => spelling m == word

/-- Space and tab part the words of a line (log 16). -/
def isBlank (c : Char) : Bool := c == ' ' || c == '\t'

/-- The words of a line; `cur` is the word being read, its last character first. -/
def wordsOf (cur : List Char) : List Char → List (List Char)
  | [] => if cur.isEmpty then [] else [cur.reverse]
  | c :: rest =>
    if isBlank c then (if cur.isEmpty then wordsOf [] rest else cur.reverse :: wordsOf [] rest)
    else wordsOf (c :: cur) rest

/-- The value of a digit, decimal or hexadecimal, of either case (log 16). -/
def digitValue (c : Char) : Option Nat :=
  if '0' ≤ c ∧ c ≤ '9' then some (c.toNat - '0'.toNat)
  else if 'a' ≤ c ∧ c ≤ 'f' then some (c.toNat - 'a'.toNat + 10)
  else if 'A' ≤ c ∧ c ≤ 'F' then some (c.toNat - 'A'.toNat + 10)
  else none

/-- The number the digits write in a base, after the value `acc`. -/
def numberFrom (base acc : Nat) : List Char → Option Nat
  | [] => some acc
  | c :: rest =>
    match digitValue c with
    | some d => if d < base then numberFrom base (acc * base + d) rest else none
    | none => none

/-- An operand: decimal, or hexadecimal after `0x` (R85). -/
def numberOf : List Char → Option Nat
  | [] => none
  | ['0', 'x'] => none
  | '0' :: 'x' :: digits => numberFrom 16 0 digits
  | digits => numberFrom 10 0 digits

/-- One line of assembly: a mnemonic, then its operand if it has one; text after `;` is a comment (R85). -/
def parseLine (line : List Char) : Option AsmLine :=
  match wordsOf [] (line.takeWhile fun c => c ≠ ';') with
  | [m] => (mnemonicOfSpelling m).map fun m => ⟨m, none⟩
  | [m, n] =>
    match mnemonicOfSpelling m, numberOf n with
    | some m, some n => some ⟨m, some n⟩
    | _, _ => none
  | _ => none

/-- The command word of a line; none where the assembler refuses it (R85). -/
def assembleLine (line : List Char) : Option Word := ((parseLine line).bind AsmLine.toInstr).map encode

/-- A hexadecimal digit, lower case. -/
def hexDigit (n : Nat) : Char := "0123456789abcdef".toList.getD n '0'

/-- The lowest `digits` hexadecimal digits of a number, the most significant first. -/
def hexOf (digits n : Nat) : List Char := (List.range digits).reverse.map fun k => hexDigit (n / 16 ^ k % 16)

/-- The name of a status code (R79); none for a code that is never emitted. -/
def statusName (code : BitVec 8) : Option (List Char) :=
  match code.toNat with
  | 0x00 => some "OK".toList
  | 0x01 => some "CONFIG_ERROR".toList
  | 0x02 => some "NOT_CONFIGURED".toList
  | 0x03 => some "NO_CHECKPOINT".toList
  | 0x04 => some "ILLEGAL".toList
  | _ => none

/-- A response as R86 writes it: a left brace, the status, a comma, DATA in hexadecimal, a right brace. -/
def showResponse (w : Word) : Option (List Char) :=
  (statusName (responseStatus w)).map fun name =>
    Char.ofNat 123 :: name ++ ", 0x".toList ++ hexOf 4 (responseData w).toNat ++ [Char.ofNat 125]

/-- The responses of a SUM as R86 writes them: the digest bytes in hexadecimal, lowest index first. -/
def showDigest (responses : List Word) : List Char := responses.flatMap fun w => hexOf 2 (responseData w).toNat

end Sys2Proof.Machine
end

