-- ==== Sys2Proof/Machine/Pseudo.lean ====
section
/-!
DEFINITION. The host-side pseudo-operations (R87): the commands each expands into, how a host sends them, and what
it makes of the responses. None of this is in the core.
-/

namespace Sys2Proof.Machine

/-- The commands of a pseudo-operation, in order (R87). A buffer form processes min(len(dst), len(src)) bytes (R87,
R183). -/
def expand : PseudoOp → List Instr
  | .write bytes => bytes.map .absorb
  | .read n => List.replicate n .squeeze
  | .encbuf dstLen src => (src.take dstLen).map .encrypt
  | .decbuf dstLen src => (src.take dstLen).map .decrypt
  | .sump _ => [.sum]
  | .clone => [.save]
  | .authInit rate key => .construct rate :: key.map .absorb ++ [.save]
  | .authenticate msg => msg.map .absorb ++ [.sum]
  | .authReset => [.restore]
  | .encApply dstLen src => (src.take dstLen).map .encrypt
  | .decApply dstLen src => (src.take dstLen).map .decrypt

/-- What the host gets from a pseudo-operation (the last column of R87's table). -/
inductive HostResult where
  /-- bytesConsumed, of a WRITE. -/
  | consumed (n : Nat)
  /-- The bytes read, the ciphertext, the plaintext, the prefixed digest or the tag. -/
  | bytes (bs : List Byte)
  /-- Nothing but success. -/
  | done
  /-- The first error response: the host stopped its sequence there (R203). -/
  | failed (response : Word)
  deriving DecidableEq, Repr

/-- A response that is not OK (R79, R170). -/
def isErrorResponse (w : Word) : Bool := decide (responseStatus w ≠ 0)

/-- The low byte of each response's DATA (R80). -/
def dataBytes (responses : List Word) : List Byte := responses.map fun w => (responseData w).extractLsb' 0 8

/-- What the host makes of the responses to a pseudo-operation's commands (R87). -/
def hostResult (op : PseudoOp) (responses : List Word) : HostResult :=
  match responses.find? isErrorResponse with
  | some w => .failed w
  | none =>
    match op with
    | .write bytes => .consumed bytes.length
    | .read _ | .encbuf _ _ | .decbuf _ _ | .encApply _ _ | .decApply _ _ => .bytes (dataBytes responses)
    | .sump front => .bytes (front ++ dataBytes responses)
    | .authenticate msg => .bytes (dataBytes (responses.drop msg.length))
    | .clone | .authInit _ _ | .authReset => .done

/-- Commands sent one after another, the host stopping after the first error response, as it must (R181, R203). -/
def sendUntilError : List Instr → State → Host.Outcome State Fault Refusal
  | [], s => .next s
  | i :: rest, s =>
    match exec i s with
    | .next t => if (t.rspOut.drop s.rspOut.length).any isErrorResponse then .next t else sendUntilError rest t
    | .fault f => .fault f
    | .refused r => .refused r

/-- A pseudo-operation carried out by the host. -/
def runPseudo (op : PseudoOp) (s : State) : Host.Outcome State Fault Refusal := sendUntilError (expand op) s

end Sys2Proof.Machine
end

