-- ==== Sys2Proof/Machine/ReadingB.lean ====
section
/-!
DEFINITION. The other reading of the trigger (R41): process then check, the permutation run at the moment CURSOR reaches
RATE. The machine is Reading A (C1) and no step comes here; this is what claims compare it with (log 19).
-/

namespace Sys2Proof.Machine

/-- A command under Reading B (R41). A byte command works at CURSOR as it stands and checks the trigger after its byte;
every other command follows its own rule, as under Reading A. -/
def execReadingB (i : Instr) (s : State) : Host.Outcome State Fault Refusal :=
  match i with
  | .absorb b => .next (s.needContext fun s => (s.finishByte (s.byteAtCursor ^^^ b) 0).trigger)
  | .squeeze => .next (s.needContext fun s => (s.advanceCursor.respond .ok (zext16 s.byteAtCursor)).trigger)
  | .encrypt p =>
    .next (s.needContext fun s => (s.finishByte (s.byteAtCursor ^^^ p) (zext16 (s.byteAtCursor ^^^ p))).trigger)
  | .decrypt c => .next (s.needContext fun s => (s.finishByte c (zext16 (s.byteAtCursor ^^^ c))).trigger)
  | .construct rate => exec (.construct rate) s
  | .pad => exec .pad s
  | .sum => exec .sum s
  | .reset => exec .reset s
  | .save => exec .save s
  | .restore => exec .restore s
  | .size => exec .size s
  | .blocksize => exec .blocksize s
  | .status => exec .status s

/-- Commands executed in order under Reading B. -/
def runReadingB : List Instr → State → Host.Outcome State Fault Refusal
  | [], s => .next s
  | i :: rest, s =>
    match execReadingB i s with
    | .next t => runReadingB rest t
    | .fault f => .fault f
    | .refused r => .refused r

end Sys2Proof.Machine
end

