-- ==== Sys2Proof/Machine/Timing.lean ====
section
/-!
DEFINITION. What a command costs: whether it permutes (R121), how many responses it gives (R81), its open latency
(R206), and a run of commands one after another (R63). Nothing here changes what a command does.
-/

namespace Sys2Proof.Machine

/-- The command runs a permutation: Trigger() at CURSOR = RATE, PAD and SUM at CURSOR > 0, nothing else (R121). -/
def permutes (i : Instr) (s : State) : Bool :=
  match i with
  | .absorb _ | .squeeze | .encrypt _ | .decrypt _ => s.valid && decide (s.cursor = s.rate)
  | .pad | .sum => s.valid && decide (s.cursor ≠ 0)
  | .construct _ | .reset | .save | .restore | .size | .blocksize | .status => false

/-- How many response words the command gives: RATE for a successful SUM, else one (R81). -/
def responseCount (i : Instr) (s : State) : Nat :=
  match i with
  | .sum => if s.valid then s.rate.toNat else 1
  | .construct _ | .absorb _ | .squeeze | .encrypt _ | .decrypt _ | .pad | .reset | .save | .restore | .size
  | .blocksize | .status => 1

/-- The time the command takes: the open parameter of R206, which no rule depends on. -/
def commandTime (i : Instr) (s : State) : Nat := Config.cmdLatency i (permutes i s)

/-- The part of that time the permutation takes: open too (R206). -/
def permutationTime (i : Instr) (s : State) : Nat := if permutes i s then Config.permLatency else 0

/-- Commands executed in order, each seeing every effect of those before it (R63). An error response does not stop
the ones after it (R181). -/
def runCommands : List Instr → State → Host.Outcome State Fault Refusal
  | [], s => .next s
  | i :: rest, s =>
    match exec i s with
    | .next t => runCommands rest t
    | .fault f => .fault f
    | .refused r => .refused r

/-- How many permutations a run of commands performs (R121). -/
def permutationCount : List Instr → State → Nat
  | [], _ => 0
  | i :: rest, s =>
    (if permutes i s then 1 else 0) +
      match exec i s with
      | .next t => permutationCount rest t
      | .fault _ => 0
      | .refused _ => 0

end Sys2Proof.Machine
end

