-- ==== Sys2Proof/Safety.lean ====
section
/-!
DEFINITION. The terms claims are made in: the invariants of R42, the canonical form of the arrays, the words a port
may carry (R76, R79), the absence of errors (R184), and the live context and slot as a host can tell them apart (R41).
-/

namespace Sys2Proof.Machine

/-- The state a step answers, if it answers one. -/
def nextState : Host.Outcome State Fault Refusal → Option State
  | .next s => some s
  | .fault _ => none
  | .refused _ => none

/-- (I1) and (I2) of R42, for the live context. -/
abbrev State.LiveInv (s : State) : Prop :=
  (s.valid = true → 1 ≤ s.rate.toNat ∧ s.cursor.toNat ≤ s.rate.toNat) ∧
  (s.valid = false → s.rate = 0 ∧ s.cursor = 0 ∧ s.blk = [])

/-- (I3) and (I4) of R42, for the checkpoint slot. -/
abbrev State.SlotInv (s : State) : Prop :=
  (s.ckValid = true → 1 ≤ s.ckRate.toNat ∧ s.ckCursor.toNat ≤ s.ckRate.toNat) ∧
  (s.ckValid = false → s.ckRate = 0 ∧ s.ckCursor = 0 ∧ s.ckBlk = [])

/-- Both arrays stand in their canonical form. -/
abbrev State.ArraysCanonical (s : State) : Prop := s.blk.wf = true ∧ s.ckBlk.wf = true

/-- A word the response port may carry: RSV = 0x00 (R78) and a status code R79 names. -/
def legalResponse (w : Word) : Bool := decide (responseRsv w = 0) && decide ((responseStatus w).toNat ≤ 4)

/-- Every response the core holds is one it may emit. -/
abbrev State.ResponsesLegal (s : State) : Prop := s.rspOut.all legalResponse = true

/-- The invariant of the machine: R42 for the live context and the slot, canonical arrays, legal responses. -/
abbrev State.Inv (s : State) : Prop := s.LiveInv ∧ s.SlotInv ∧ s.ArraysCanonical ∧ s.ResponsesLegal

/-- "No error occurred" since hardware reset (R184). -/
def State.noError (s : State) : Bool := decide (s.errlog = 0)

/-- The word passes every check of R76. -/
def wordAccepted (w : Word) : Bool :=
  decide (1 ≤ (opcField w).toNat ∧ (opcField w).toNat ≤ 0x0D) && decide (rsvField w = 0) &&
    (if (opcField w).toNat = 0x01 then true
     else if (opcField w).toNat = 0x02 ∨ (opcField w).toNat = 0x04 ∨ (opcField w).toNat = 0x05 then
       decide (w.extractLsb' 8 8 = 0)
     else decide (argField w = 0))

/-- The nine commands that need a valid context (R172). -/
def needsContext : Instr → Bool
  | .absorb _ | .squeeze | .encrypt _ | .decrypt _ | .pad | .sum | .save | .size | .blocksize => true
  | .construct _ | .reset | .restore | .status => false

/-- The byte commands: those that process the byte at CURSOR (R120). -/
def isByteCommand : Instr → Bool
  | .absorb _ | .squeeze | .encrypt _ | .decrypt _ => true
  | .construct _ | .pad | .sum | .reset | .save | .restore | .size | .blocksize | .status => false

/-- The command answers NOT_CONFIGURED(0): its response is `0x02000000`, ERRLOG bit 1 is set, nothing else changes
(R172, R173). -/
def refusesUnconfigured (i : Instr) (s : State) : Prop :=
  exec i s = .next { s with errlog := s.errlog ||| 0b0010, rspOut := s.rspOut ++ [0x02000000] }

/-- Sub-block j of a block. -/
def subBlock (s : SubBlocks) (j : Fin 8) : SubBlock :=
  match j with
  | 0 => s.i0
  | 1 => s.i1
  | 2 => s.i2
  | 3 => s.i3
  | 4 => s.i4
  | 5 => s.i5
  | 6 => s.i6
  | 7 => s.i7

/-- The state with a pending permutation (R40) carried out, in the live context and in the slot: under the reading B of
R41 the permutation has run by now. -/
def State.settled (s : State) : State :=
  { s with
    blk := if s.valid && decide (s.cursor = s.rate) then perm Config.arx s.blk else s.blk
    cursor := if s.valid && decide (s.cursor = s.rate) then 0 else s.cursor
    ckBlk := if s.ckValid && decide (s.ckCursor = s.ckRate) then perm Config.arx s.ckBlk else s.ckBlk
    ckCursor := if s.ckValid && decide (s.ckCursor = s.ckRate) then 0 else s.ckCursor }

/-- Two states that are equal once every pending permutation has run (R41). -/
def sameToHost (s t : State) : Prop := s.settled = t.settled

/-- Two states that differ in the capacity bytes of BLK alone: BLK reads the same below RATE, every other field is
equal (R32). -/
def sameBelowRate (s t : State) : Prop :=
  t = { s with blk := t.blk } ∧ ∀ a, a < s.rate.toNat → t.blk.read a = s.blk.read a

/-- Two states with the same live context, whatever their slots, logs and ports hold. -/
def sameContext (s t : State) : Prop :=
  t.valid = s.valid ∧ t.rate = s.rate ∧ t.cursor = s.cursor ∧ t.blk = s.blk

end Sys2Proof.Machine
end

