-- ==== Sys2Proof/Certificates/Slice0/Obligations.lean ====
section
/-!
DEFINITION. The statements for the provers. Each docstring names the rule of spec/ it formalises, or the sections it is
derived from. Nothing is proved here.
-/

open Sys2Proof Sys2Proof.Machine

/-! ## Encoding -/

/-- R76, R82: a word that passes every check of R76 is the word of one command and runs as that command; every other word
raises ILLEGAL(0), changing no state but ERRLOG bit 3, whatever the state. -/
def Obligations.WordsDecodeOrRaiseIllegal : Prop :=
  ∀ (w : Word) (s : State),
    if wordAccepted w = true then ∃ i, decode w = .ok i ∧ encode i = w ∧ runWord w s = exec i s
    else runWord w s = .next { s with errlog := s.errlog ||| 0b1000, rspOut := s.rspOut ++ [0x04000000] }

/-- 30_encoding.md sections 1 to 3: decoding the word of a command gives the command back, for every command with every
operand its field admits. -/
def Obligations.EncodedCommandDecodesToItself : Prop := ∀ i : Instr, decode (encode i) = .ok i

/-- 30_encoding.md sections 1 to 3: each accepted word is the word of the command it decodes to, so no bit of a word is
ignored and no two words name one command. -/
def Obligations.DecodedWordIsItsCommandsWord : Prop := ∀ (w : Word) (i : Instr), decode w = .ok i → encode i = w

/-- R77: the bit pattern of each row of the opcode map. -/
def Obligations.CommandWordsFollowTheOpcodeMap : Prop :=
  (∀ rate, encode (.construct rate) = 0x01000000 ||| rate.setWidth 32) ∧
  (∀ b, encode (.absorb b) = 0x02000000 ||| b.setWidth 32) ∧
  encode .squeeze = 0x03000000 ∧
  (∀ p, encode (.encrypt p) = 0x04000000 ||| p.setWidth 32) ∧
  (∀ c, encode (.decrypt c) = 0x05000000 ||| c.setWidth 32) ∧
  encode .pad = 0x06000000 ∧ encode .sum = 0x07000000 ∧ encode .reset = 0x08000000 ∧ encode .save = 0x09000000 ∧
  encode .restore = 0x0A000000 ∧ encode .size = 0x0B000000 ∧ encode .blocksize = 0x0C000000 ∧
  encode .status = 0x0D000000

/-- 95_test_vectors.md sections 1 and 6 to 8: words the spec writes out, and what they are. -/
def Obligations.SpecWordsDecodeAsListed : Prop :=
  decode 0x01000020 = .ok (.construct 32) ∧ decode 0x0100FFFF = .ok (.construct 65535) ∧
  decode 0x02000099 = .ok (.absorb 0x99) ∧ decode 0x04000041 = .ok (.encrypt 0x41) ∧
  decode 0x0500001B = .ok (.decrypt 0x1B) ∧ decode 0x0A000000 = .ok .restore ∧
  decode 0x0E000000 = .error .reservedOpcode ∧ decode 0x02010000 = .error .reservedField ∧
  decode 0x02000100 = .error .byteFormHighArg ∧ decode 0x03000001 = .error .noOperandFormArg

/-- 30_encoding.md section 7 (R85) and decision D25: a CONSTRUCT line is taken exactly for a rate in 0..65535 and a byte
line exactly for a byte in 0..255, and the operand lands in the low bits of the word; any other number, a negative one too,
is refused. -/
def Obligations.AssemblerTakesExactlyTheOperandsThatFit : Prop :=
  ∀ n : Int,
    ((AsmLine.mk .construct (some n)).toInstr.map encode =
      if 0 ≤ n ∧ n ≤ 65535 then some (BitVec.ofInt 32 (0x01000000 + n)) else none) ∧
    ((AsmLine.mk .absorb (some n)).toInstr.map encode =
      if 0 ≤ n ∧ n ≤ 255 then some (BitVec.ofInt 32 (0x02000000 + n)) else none) ∧
    ((AsmLine.mk .encrypt (some n)).toInstr.map encode =
      if 0 ≤ n ∧ n ≤ 255 then some (BitVec.ofInt 32 (0x04000000 + n)) else none) ∧
    ((AsmLine.mk .decrypt (some n)).toInstr.map encode =
      if 0 ≤ n ∧ n ≤ 255 then some (BitVec.ofInt 32 (0x05000000 + n)) else none)

/-! ## The permutation -/

/-- R99: the eight closed forms of rotl, and its corner cases. It is a rotation for no amount. -/
def Obligations.RotlHasItsEightClosedForms : Prop :=
  (∀ v : W64,
    rotl v 7 = (v <<< 7) ||| (v >>> 25) ∧ rotl v 19 = (v <<< 19) ||| (v >>> 13) ∧
    rotl v 31 = (v <<< 31) ||| (v >>> 1) ∧ rotl v 53 = v <<< 53 ∧
    rotl v 11 = (v <<< 11) ||| (v >>> 21) ∧ rotl v 23 = (v <<< 23) ||| (v >>> 9) ∧
    rotl v 37 = v <<< 37 ∧ rotl v 59 = v <<< 59) ∧
  (∀ s ∈ [7, 11, 19, 23, 31, 37, 53, 59], rotl 0 s = 0) ∧
  (∀ s ∈ [7, 11, 19, 23, 31], rotl 0xFFFFFFFFFFFFFFFF s = 0xFFFFFFFFFFFFFFFF) ∧
  rotl 0xFFFFFFFFFFFFFFFF 53 = 0xFFE0000000000000 ∧ rotl 0x0123456789ABCDEF 7 = 0x91A2B3C4D5E6F7C4

/-- 40_arx_permutation.md section 4 (R102 to R104): each output word of a mix adds the XOR of three rotated X sums to the
XOR of three rotated Y sums, the fourth of each side left out. -/
def Obligations.MixAddsTheXorOfTheOtherThree : Prop :=
  ∀ (c : MixConsts) (x y : SubBlock),
    let t6 := rotl (c.c0 + x.s0 + x.s1 + x.s2) 7
    let t7 := rotl (c.c1 + x.s0 + x.s1 + x.s3) 19
    let t4 := rotl (c.c2 + x.s0 + x.s2 + x.s3) 31
    let t5 := rotl (c.c3 + x.s1 + x.s2 + x.s3) 53
    let t8 := rotl (c.c4 + y.s0 + y.s2 + y.s3) 11
    let t9 := rotl (c.c5 + y.s1 + y.s2 + y.s3) 23
    let t10 := rotl (c.c6 + y.s0 + y.s1 + y.s2) 37
    let t11 := rotl (c.c7 + y.s0 + y.s1 + y.s3) 59
    mix c x y =
      { s0 := (t4 ^^^ t6 ^^^ t7) + (t8 ^^^ t10 ^^^ t11)
        s1 := (t4 ^^^ t5 ^^^ t7) + (t8 ^^^ t9 ^^^ t11)
        s2 := (t4 ^^^ t5 ^^^ t6) + (t8 ^^^ t9 ^^^ t10)
        s3 := (t5 ^^^ t6 ^^^ t7) + (t9 ^^^ t10 ^^^ t11) }

/-- R105: in a forward pass sub-block j is the mix of the chain value before it (the round's quadruple for j = 0) as X and
input sub-block j as Y. -/
def Obligations.ForwardPassChainsUpward : Prop :=
  ∀ (t : ArxTable) (r : Fin 6) (i : SubBlocks),
    subBlock (forward t r i) 0 = mix (t.mc r 0) (t.cq r) (subBlock i 0) ∧
    ∀ j k : Fin 8, k.val = j.val + 1 →
      subBlock (forward t r i) k = mix (t.mc r k) (subBlock (forward t r i) j) (subBlock i k)

/-- R106: in a backward pass sub-block j is the mix of input sub-block j as X and the chain value after it (the round's
quadruple for j = 7) as Y. -/
def Obligations.BackwardPassChainsDownward : Prop :=
  ∀ (t : ArxTable) (r : Fin 6) (i : SubBlocks),
    subBlock (backward t r i) 7 = mix (t.mc r 7) (subBlock i 7) (t.cq r) ∧
    ∀ j k : Fin 8, k.val = j.val + 1 →
      subBlock (backward t r i) j = mix (t.mc r j) (subBlock i j) (subBlock (backward t r i) k)

/-- R52, R53: word w of a block has byte 8w+k at bits 63-8k..56-8k, word k of sub-block i is word 4i+k, and writing a block
back puts those bits of each word in that byte. -/
def Obligations.BlockIsBigEndianWordsInRowMajorOrder : Prop :=
  (∀ (m : Memory) (w k : Nat), k < 8 → (m.wordAt w).extractLsb' (56 - 8 * k) 8 = m.read (8 * w + k)) ∧
  (∀ (m : Memory) (i : Fin 8) (k : Nat), k < 4 →
    (SubBlock.words (subBlock m.toSubBlocks i)).getD k 0 = m.wordAt (4 * i.val + k)) ∧
  (∀ (s : SubBlocks) (i : Fin 8) (k b : Nat), k < 4 → b < 8 →
    (Memory.ofSubBlocks s).read (8 * (4 * i.val + k) + b) =
      ((SubBlock.words (subBlock s i)).getD k 0).extractLsb' (56 - 8 * b) 8)

/-- 20_memory.md section 2: the two views of a block lose nothing: a canonical block read as words and written back is
itself. -/
def Obligations.BlockSurvivesItsWordView : Prop :=
  ∀ m : Memory, m.wf = true → Memory.ofSubBlocks m.toSubBlocks = m

/-- R107, R108: byte 8w+b of Perm(block) is byte b of word w of the six rounds F, B, F, B, F, B, with round indices 0 to 5,
applied to the block's words. -/
def Obligations.PermIsSixAlternatingRoundsOnTheWords : Prop :=
  ∀ (t : ArxTable) (m : Memory) (i : Fin 8) (k b : Nat), k < 4 → b < 8 →
    (perm t m).read (8 * (4 * i.val + k) + b) =
      ((SubBlock.words (subBlock
          (backward t 5 (forward t 4 (backward t 3 (forward t 2 (backward t 1 (forward t 0 m.toSubBlocks)))))) i)).getD k
        0).extractLsb' (56 - 8 * b) 8

/-- R109: blocks with the same 256 bytes permute to the same block, in canonical form, under the same constants. -/
def Obligations.EqualBlocksPermuteEqually : Prop :=
  ∀ (t : ArxTable) (m n : Memory), (∀ a, a < 256 → m.read a = n.read a) → perm t m = perm t n ∧ (perm t m).wf = true

/-! ## What each command does -/

/-- R120: the trigger check permutes BLK and zeroes CURSOR exactly at CURSOR = RATE, and it runs before the byte of every
ABSORB, SQUEEZE, ENCRYPT and DECRYPT is processed; until one of these, PAD or SUM, a pending trigger persists, unless a
command replaces or clears the whole context. A valid context has RATE > 0 (I1 of R42). -/
def Obligations.TriggerCheckPrecedesEveryByte : Prop :=
  ∀ s : State,
    (s.trigger = if s.cursor = s.rate then { s with blk := perm Config.arx s.blk, cursor := 0 } else s) ∧
    (∀ i, isByteCommand i = true → s.valid = true → s.rate ≠ 0 → exec i s = exec i s.trigger) ∧
    ∀ i t, isByteCommand i = false → i ≠ .pad → i ≠ .sum → (∀ rate, i ≠ .construct rate) → i ≠ .reset → i ≠ .restore →
      exec i s = .next t → t.cursor = s.cursor ∧ t.blk = s.blk

/-- R122: CONSTRUCT takes a rate in 1..255, whatever VALID is, and makes a zero context; any other rate raises
CONFIG_ERROR with the rate as DATA and changes nothing but ERRLOG bit 0. -/
def Obligations.ConstructMakesAZeroContextOrRefusesTheRate : Prop :=
  ∀ (rate : BitVec 16) (s : State),
    exec (.construct rate) s = .next
      (if 1 ≤ rate.toNat ∧ rate.toNat ≤ 255 then
        { s with valid := true, rate := BitVec.ofNat 8 rate.toNat, cursor := 0, blk := []
                 rspOut := s.rspOut ++ [0x00000000] }
      else { s with errlog := s.errlog ||| 0b0001, rspOut := s.rspOut ++ [0x01000000 ||| rate.setWidth 32] })

/-- R123: ABSORB XORs its byte into BLK[CURSOR] after the trigger check, advances CURSOR, answers OK, and changes nothing
else; on an invalid context it raises NOT_CONFIGURED. -/
def Obligations.AbsorbXorsIntoTheByteAtTheCursor : Prop :=
  ∀ (b : Byte) (s : State),
    (s.valid = false → refusesUnconfigured (.absorb b) s) ∧
    (s.valid = true → s.blk.wf = true →
      ∃ t, exec (.absorb b) s = .next t ∧
        t = { s with blk := t.blk, cursor := s.trigger.cursor + 1, rspOut := s.rspOut ++ [0x00000000] } ∧
        ∀ a, t.blk.read a = if a = s.trigger.cursor.toNat then s.trigger.blk.read a ^^^ b else s.trigger.blk.read a)

/-- R124: SQUEEZE answers BLK[CURSOR] after the trigger check and advances CURSOR; BLK changes by the trigger alone. -/
def Obligations.SqueezeAnswersTheByteAtTheCursor : Prop :=
  ∀ s : State,
    (s.valid = false → refusesUnconfigured .squeeze s) ∧
    (s.valid = true →
      exec .squeeze s = .next
        { s with blk := s.trigger.blk, cursor := s.trigger.cursor + 1
                 rspOut := s.rspOut ++ [(s.trigger.blk.read s.trigger.cursor.toNat).setWidth 32] })

/-- R125: ENCRYPT XORs the plaintext byte into BLK[CURSOR] after the trigger check and answers the byte it left there. -/
def Obligations.EncryptAnswersThePostXorByte : Prop :=
  ∀ (p : Byte) (s : State),
    (s.valid = false → refusesUnconfigured (.encrypt p) s) ∧
    (s.valid = true → s.blk.wf = true →
      ∃ t, exec (.encrypt p) s = .next t ∧
        t = { s with blk := t.blk, cursor := s.trigger.cursor + 1
                     rspOut := s.rspOut ++ [(t.blk.read s.trigger.cursor.toNat).setWidth 32] } ∧
        ∀ a, t.blk.read a = if a = s.trigger.cursor.toNat then s.trigger.blk.read a ^^^ p else s.trigger.blk.read a)

/-- R126: DECRYPT answers BLK[CURSOR] as it was after the trigger check, XORed with the ciphertext byte, and replaces that
byte by the ciphertext byte. -/
def Obligations.DecryptReplacesTheByteAtTheCursor : Prop :=
  ∀ (c : Byte) (s : State),
    (s.valid = false → refusesUnconfigured (.decrypt c) s) ∧
    (s.valid = true → s.blk.wf = true →
      ∃ t, exec (.decrypt c) s = .next t ∧
        t = { s with blk := t.blk, cursor := s.trigger.cursor + 1
                     rspOut := s.rspOut ++ [(s.trigger.blk.read s.trigger.cursor.toNat ^^^ c).setWidth 32] } ∧
        ∀ a, t.blk.read a = if a = s.trigger.cursor.toNat then c else s.trigger.blk.read a)

/-- R128: PAD permutes and zeroes CURSOR when CURSOR > 0, does nothing to the context at CURSOR = 0, and answers OK. -/
def Obligations.PadPermutesUnlessTheCursorIsZero : Prop :=
  ∀ s : State,
    (s.valid = false → refusesUnconfigured .pad s) ∧
    (s.valid = true →
      exec .pad s = .next
        { s with blk := (if s.cursor.toNat > 0 then perm Config.arx s.blk else s.blk), cursor := 0
                 rspOut := s.rspOut ++ [0x00000000] })

/-- R130: SUM pads, then answers bytes 0..RATE-1 of the block, one OK response each in index order, and leaves
CURSOR = 0. -/
def Obligations.SumAnswersTheRatePartAfterThePad : Prop :=
  ∀ s : State,
    (s.valid = false → refusesUnconfigured .sum s) ∧
    (s.valid = true →
      ∃ t, exec .sum s = .next t ∧
        t = { s with blk := (if s.cursor.toNat > 0 then perm Config.arx s.blk else s.blk), cursor := 0
                     rspOut := t.rspOut } ∧
        t.rspOut.length = s.rspOut.length + s.rate.toNat ∧ t.rspOut.take s.rspOut.length = s.rspOut ∧
        ∀ i, i < s.rate.toNat → t.rspOut[s.rspOut.length + i]? = some ((t.blk.read i).setWidth 32))

/-- R132: RESET zeroes VALID, RATE, CURSOR and BLK, answers OK whatever VALID is, and touches neither the slot nor
ERRLOG. -/
def Obligations.ResetClearsTheLiveContextAlone : Prop :=
  ∀ s : State, ∃ t, exec .reset s = .next t ∧
    t = { s with valid := false, rate := 0, cursor := 0, blk := t.blk, rspOut := s.rspOut ++ [0x00000000] } ∧
    ∀ a, t.blk.read a = 0

/-- R150: SAVE copies RATE, CURSOR and BLK to the slot as they stand and sets CK_VALID; the live context is unchanged. -/
def Obligations.SaveCopiesTheContextToTheSlot : Prop :=
  ∀ s : State,
    (s.valid = false → refusesUnconfigured .save s) ∧
    (s.valid = true →
      exec .save s = .next
        { s with ckValid := true, ckRate := s.rate, ckCursor := s.cursor, ckBlk := s.blk
                 rspOut := s.rspOut ++ [0x00000000] })

/-- R151: RESTORE copies the slot to the live context and sets VALID, whether or not VALID was set; with no valid
checkpoint it raises NO_CHECKPOINT(0) and changes nothing but ERRLOG bit 2. -/
def Obligations.RestoreCopiesTheSlotToTheContext : Prop :=
  ∀ s : State,
    exec .restore s = .next
      (if s.ckValid = true then
        { s with valid := true, rate := s.ckRate, cursor := s.ckCursor, blk := s.ckBlk
                 rspOut := s.rspOut ++ [0x00000000] }
      else { s with errlog := s.errlog ||| 0b0100, rspOut := s.rspOut ++ [0x03000000] })

/-- R152: SIZE answers RATE and changes no state. -/
def Obligations.SizeAnswersTheRate : Prop :=
  ∀ s : State,
    (s.valid = false → refusesUnconfigured .size s) ∧
    (s.valid = true → exec .size s = .next { s with rspOut := s.rspOut ++ [BitVec.ofNat 32 s.rate.toNat] })

/-- R153: BLOCKSIZE answers the capacity, 256 - RATE, which is in 1..255 where the context invariant holds, and changes no
state. -/
def Obligations.BlocksizeAnswersTheCapacity : Prop :=
  ∀ s : State,
    (s.valid = false → refusesUnconfigured .blocksize s) ∧
    (s.valid = true →
      exec .blocksize s = .next { s with rspOut := s.rspOut ++ [BitVec.ofNat 32 (256 - s.rate.toNat)] } ∧
      (s.LiveInv → 1 ≤ 256 - s.rate.toNat ∧ 256 - s.rate.toNat ≤ 255))

/-- R36, R154: STATUS answers, whatever VALID is, VALID in bit 0, CK_VALID in bit 1, ERRLOG in bits 7:4 and 0 in every
other bit of the word, and changes no state. -/
def Obligations.StatusAnswersTheFlagsBitByBit : Prop :=
  ∀ s : State, ∃ d : Word,
    exec .status s = .next { s with rspOut := s.rspOut ++ [d] } ∧
    d.getLsbD 0 = s.valid ∧ d.getLsbD 1 = s.ckValid ∧ d.getLsbD 2 = false ∧ d.getLsbD 3 = false ∧
    (∀ k, k < 4 → d.getLsbD (4 + k) = s.errlog.getLsbD k) ∧ ∀ k, 8 ≤ k → d.getLsbD k = false

/-! ## Responses and errors -/

/-- R81: every command gives exactly one response, but for a successful SUM, which gives RATE; each has RSV = 0x00 and a
status R79 names, and they stand after the responses already there. The host's own fields are unchanged. -/
def Obligations.EveryCommandGivesItsNumberOfResponses : Prop :=
  ∀ (i : Instr) (s t : State), exec i s = .next t →
    ∃ new, t.rspOut = s.rspOut ++ new ∧
      new.length = (if i = .sum ∧ s.valid = true then s.rate.toNat else 1) ∧ new.all legalResponse = true ∧
      t.cmdIn = s.cmdIn ∧ t.host = s.host ∧ t.received = s.received

/-- R173: a word that gets an error response sets the ERRLOG bit of that status and changes nothing else. -/
def Obligations.ErrorsChangeNothingButTheirLogBit : Prop :=
  ∀ (w : Word) (s t : State) (r : Word), runWord w s = .next t → t.rspOut = s.rspOut ++ [r] → responseStatus r ≠ 0 →
    t = { s with errlog := s.errlog ||| (1 <<< ((responseStatus r).toNat - 1)), rspOut := s.rspOut ++ [r] }

/-- 10_state.md section 4: after any word ERRLOG bit k is set exactly if it was set or a response of status k+1 was
emitted, and no step but one of hardware reset clears a bit (the host's levels, rst among them, are the model's plain
data: log 1). -/
def Obligations.ErrorLogIsStickyAndComplete : Prop :=
  (∀ (w : Word) (s t : State), runWord w s = .next t →
    ∃ new, t.rspOut = s.rspOut ++ new ∧
      ∀ k, k < 4 → t.errlog.getLsbD k = (s.errlog.getLsbD k || new.any fun r => (responseStatus r).toNat == k + 1)) ∧
  ∀ s t : State, s.hostCycle.rst = false → step s = .next t →
    ∀ k, s.errlog.getLsbD k = true → t.errlog.getLsbD k = true

/-- R171, R172, R174, R175: each error status answers its one cause and no other word, and DATA is the offending rate for
CONFIG_ERROR and 0 for the rest. -/
def Obligations.EachErrorHasItsOneCause : Prop :=
  ∀ (w : Word) (s t : State) (r : Word), runWord w s = .next t → t.rspOut = s.rspOut ++ [r] →
    (responseStatus r = 0x04 ↔ wordAccepted w = false) ∧
    (responseStatus r = 0x03 ↔ decode w = .ok .restore ∧ s.ckValid = false) ∧
    (responseStatus r = 0x02 ↔ s.valid = false ∧ ∃ i, decode w = .ok i ∧ needsContext i = true) ∧
    (responseStatus r = 0x01 ↔ ∃ rate, decode w = .ok (.construct rate) ∧ (rate.toNat = 0 ∨ 256 ≤ rate.toNat)) ∧
    (responseStatus r = 0x01 → responseData r = argField w) ∧
    (responseStatus r ≠ 0x00 → responseStatus r ≠ 0x01 → responseData r = 0)

/-- 60_exceptions.md section 1 (R181): an error leaves the commands after it as they would be: no command but STATUS gives
another response, or leaves another state but for ERRLOG, when ERRLOG held something else before it. -/
def Obligations.ErrorLogReachesNothingButStatus : Prop :=
  ∀ (i : Instr) (s t : State) (e : BitVec 4), i ≠ .status → exec i s = .next t →
    ∃ u, exec i { s with errlog := e } = .next u ∧ u = { t with errlog := u.errlog }

/-! ## The ports and the step -/

/-- Where the host offers the word `w`, no response waits and reset is not asserted, and `w` decodes to `i`, a step is
`exec i` at the state with the word taken from the port and the cycle used up (60_exceptions.md section 3; the host's
levels as plain data are the model's choice: log 1). -/
def Obligations.StepRunsTheDecodedCommand : Prop :=
  ∀ (s : State) (w : Word) (rest : List Word) (i : Instr),
    s.hostCycle.rst = false → s.hostCycle.cmdValid = true → s.rspOut = [] → s.cmdIn = w :: rest → decode w = .ok i →
      step s = exec i { s with cmdIn := rest, host := s.host.tail }

/-- 60_exceptions.md section 3: with reset not asserted, a waiting response keeps every command out and leaves only when
the host accepts it; without one, an offered word runs, and with no word offered the core holds its state. The host's
levels as plain data (log 1) and the hold as a step that uses a cycle up (log 6) are the model's. -/
def Obligations.CoreTakesACommandOnlyWhenIdle : Prop :=
  ∀ s : State, s.hostCycle.rst = false →
    step s =
      match s.rspOut, s.cmdIn with
      | r :: rest, _ =>
        if s.hostCycle.rspReady = true then
          .next { s with rspOut := rest, received := s.received ++ [r], host := s.host.tail }
        else .next { s with host := s.host.tail }
      | [], w :: rest =>
        if s.hostCycle.cmdValid = true then runWord w { s with cmdIn := rest, host := s.host.tail }
        else .next { s with host := s.host.tail }
      | [], [] => .next { s with host := s.host.tail }

/-- 70_reset_and_hazards.md section 1: hardware reset puts every element of the core at its reset value, from any state, discards the waiting
responses and runs no command; the model's state after reset has those values too. What the host still has to send and has
taken is the host's, which is the model's choice (logs 1, 3, 7). -/
def Obligations.HardwareResetZeroesTheCore : Prop :=
  (∀ s : State, s.hostCycle.rst = true →
    ∃ t, step s = .next t ∧
      t = { State.reset with cmdIn := s.cmdIn, host := s.host.tail, received := s.received }) ∧
  State.reset.valid = false ∧ State.reset.rate = 0 ∧ State.reset.cursor = 0 ∧ (∀ a, State.reset.blk.read a = 0) ∧
  State.reset.ckValid = false ∧ State.reset.ckRate = 0 ∧ State.reset.ckCursor = 0 ∧
  (∀ a, State.reset.ckBlk.read a = 0) ∧ State.reset.errlog = 0b0000 ∧ State.reset.cmdReady = true ∧
  State.reset.rspValid = false

/-- 20_memory.md section 6: on every step but one of hardware reset, the words taken followed by the words waiting only grow at the end, and
they grow only where no response was waiting and one command word was taken (the host's queues are the model's: log 1).
-/
def Obligations.ResponsesLeaveInCommandOrder : Prop :=
  ∀ s t : State, s.hostCycle.rst = false → step s = .next t →
    ∃ new, t.received ++ t.rspOut = s.received ++ s.rspOut ++ new ∧
      (new ≠ [] → s.rspOut = [] ∧ ∃ w, s.cmdIn = w :: t.cmdIn)

/-- 60_exceptions.md section 1 (R177, R184): no step faults and none is refused, from any state (log 12). -/
def Obligations.EveryStepAnswersANextState : Prop := ∀ s : State, ∃ t, step s = .next t

/-- 70_reset_and_hazards.md section 4 (R207): with a host that accepts, a command is over, all its responses taken, after
one step and one step a response, of which there are at most 255. A step for a command and one for each response is the
model's choice (log 8), as is the host that accepts once its list of levels is used up (log 1). -/
def Obligations.EveryCommandCompletesWithinItsResponses : Prop :=
  ∀ (s : State) (w : Word) (rest : List Word), s.host = [] → s.rspOut = [] → s.cmdIn = w :: rest →
    ∃ t, runWord w { s with cmdIn := rest } = .next t ∧ t.rspOut.length ≤ 255 ∧
      Host.Core.run core (1 + t.rspOut.length) s = .next { t with rspOut := [], received := s.received ++ t.rspOut }

/-! ## Invariants and frames of the whole machine -/

/-- 10_state.md section 7: the state after reset meets the invariant. -/
def Obligations.ResetMeetsTheInvariant : Prop := State.reset.Inv

/-- 10_state.md section 7 (R42): every step keeps the invariant: (I1) to (I4) for the live context and the slot, both
arrays canonical, every waiting response one the core may emit. -/
def Obligations.EveryStepKeepsTheInvariant : Prop :=
  ∀ s t : State, s.Inv → step s = .next t → t.Inv

/-- 10_state.md section 3: CK_VALID, and with it the whole slot, is written by SAVE alone, and cleared by hardware reset alone; RESTORE raises
NO_CHECKPOINT while it is 0. The word and the reset arrive by the model's host (log 1). -/
def Obligations.SlotChangesOnlyBySaveOrHardwareReset : Prop :=
  (∀ s t : State, s.hostCycle.rst = false → step s = .next t →
    (s.ckValid = true → t.ckValid = true) ∧
    ((t.ckValid = s.ckValid ∧ t.ckRate = s.ckRate ∧ t.ckCursor = s.ckCursor ∧ t.ckBlk = s.ckBlk) ∨
      (s.rspOut = [] ∧ s.valid = true ∧ t.ckValid = true ∧ ∃ rest, s.cmdIn = 0x09000000 :: rest))) ∧
  (∀ s t : State, s.hostCycle.rst = true → step s = .next t → t.ckValid = false) ∧
  ∀ s : State, s.ckValid = false →
    exec .restore s = .next { s with errlog := s.errlog ||| 0b0100, rspOut := s.rspOut ++ [0x03000000] }

/-- 10_state.md section 1 (R26, the column "written by"): each element changes only by a command named for it. -/
def Obligations.StateChangesOnlyByItsNamedWriters : Prop :=
  ∀ (i : Instr) (s t : State), exec i s = .next t →
    ((∀ rate, i ≠ .construct rate) → i ≠ .restore → i ≠ .reset → t.valid = s.valid ∧ t.rate = s.rate) ∧
    ((∀ rate, i ≠ .construct rate) → i ≠ .restore → i ≠ .reset → isByteCommand i = false → i ≠ .pad → i ≠ .sum →
      t.cursor = s.cursor ∧ t.blk = s.blk) ∧
    (i ≠ .save → t.ckValid = s.ckValid ∧ t.ckRate = s.ckRate ∧ t.ckCursor = s.ckCursor ∧ t.ckBlk = s.ckBlk) ∧
    ((t.rspOut.drop s.rspOut.length).all (fun r => responseStatus r == 0) = true → t.errlog = s.errlog)

/-- 10_state.md section 2 (R28): VALID rises only by CONSTRUCT with a good rate or by RESTORE from a valid checkpoint, and
falls only by RESET and hardware reset (the model's host brings both: log 1). -/
def Obligations.ValidRisesAndFallsOnlyByItsCommands : Prop :=
  (∀ (i : Instr) (s t : State), exec i s = .next t →
    (s.valid = false → t.valid = true →
      (∃ rate, i = .construct rate ∧ 1 ≤ rate.toNat ∧ rate.toNat ≤ 255) ∨ (i = .restore ∧ s.ckValid = true)) ∧
    (s.valid = true → t.valid = false → i = .reset)) ∧
  ∀ s t : State, step s = .next t → s.valid = true → t.valid = false →
    s.hostCycle.rst = true ∨ ∃ rest, s.cmdIn = 0x08000000 :: rest

/-- 41_sponge_commands.md section 1 (R121): where no permutation is due, a command that neither makes nor replaces the
context leaves every byte of BLK but the one at CURSOR; where one is due, the bytes but that at index 0 are those of
Perm(BLK). -/
def Obligations.BlockIsPermutedExactlyWhereDue : Prop :=
  ∀ (i : Instr) (s t : State), s.blk.wf = true → exec i s = .next t → (∀ rate, i ≠ .construct rate) → i ≠ .restore →
    i ≠ .reset →
      if permutes i s = true then ∀ a, a ≠ 0 → t.blk.read a = (perm Config.arx s.blk).read a
      else ∀ a, a ≠ s.cursor.toNat → t.blk.read a = s.blk.read a

/-- 10_state.md sections 2 and 7 (R31, I5 of R42): a byte command on a context that meets the invariant works at an index
below RATE, and no byte of the capacity differs after it from what the trigger check left. -/
def Obligations.ByteCommandsStayInsideTheRatePart : Prop :=
  ∀ (i : Instr) (s : State), isByteCommand i = true → s.valid = true → s.LiveInv → s.blk.wf = true →
    s.trigger.cursor.toNat < s.rate.toNat ∧
    ∃ t, exec i s = .next t ∧ ∀ a, s.rate.toNat ≤ a → t.blk.read a = s.trigger.blk.read a

/-- 10_state.md section 2 (R31, R32): the capacity is not exposed: from two valid contexts that differ only in capacity
bytes, a command that does not permute gives the same responses and leaves contexts that again agree below RATE. -/
def Obligations.CapacityIsNotExposedBetweenPermutations : Prop :=
  ∀ (i : Instr) (s u : State), s.valid = true → s.LiveInv → s.blk.wf = true → u.blk.wf = true → sameBelowRate s u →
    permutes i s = false →
      ∃ t v, exec i s = .next t ∧ exec i u = .next v ∧ v.rspOut = t.rspOut ∧
        v.valid = t.valid ∧ v.rate = t.rate ∧ v.cursor = t.cursor ∧
        ∀ a, a < t.rate.toNat → v.blk.read a = t.blk.read a

/-! ## Laws of command sequences -/

/-- 41_sponge_commands.md section 3 (R127): decrypting what was encrypted, from an equal context, gives the plaintext back
and ends in an equal context, for a plaintext of any length. -/
def Obligations.DecryptUndoesEncrypt : Prop :=
  ∀ (ps : List Byte) (s u : State), s.valid = true → sameContext s u →
    ∃ t v, runCommands (ps.map .encrypt) s = .next t ∧
      runCommands ((dataBytes (t.rspOut.drop s.rspOut.length)).map .decrypt) u = .next v ∧
      dataBytes (v.rspOut.drop u.rspOut.length) = ps ∧ sameContext t v

/-- 42_context_commands.md sections 1 and 2 (R155): after a SAVE and any commands but SAVE, RESTORE brings the saved context
back. -/
def Obligations.RestoreBringsBackWhatSaveKept : Prop :=
  ∀ (is : List Instr) (s : State), s.valid = true → (∀ i ∈ is, i ≠ .save) →
    ∃ t, runCommands (.save :: (is ++ [.restore])) s = .next t ∧ sameContext s t

/-- 42_context_commands.md section 2 (R156): AUTH_RESET then AUTHENTICATE, done twice, gives the same tag twice and the same
context. -/
def Obligations.AuthenticatorGivesTheSameTagAfterReset : Prop :=
  ∀ (msg : List Byte) (s : State), s.ckValid = true →
    ∃ t u, runCommands (expand .authReset ++ expand (.authenticate msg)) s = .next t ∧
      runCommands (expand .authReset ++ expand (.authenticate msg)) t = .next u ∧
      t.rspOut.drop s.rspOut.length = u.rspOut.drop t.rspOut.length ∧ sameContext t u

/-- 10_state.md section 6 (R40, R41): a pending permutation and one already carried out cannot be told apart: from two
states that are equal once every pending permutation has run, any commands give the same responses and end in two such
states. -/
def Obligations.PendingAndDonePermutationsAreIndistinguishable : Prop :=
  ∀ (is : List Instr) (s u : State), s.Inv → u.Inv → sameToHost s u →
    ∃ t v, runCommands is s = .next t ∧ runCommands is u = .next v ∧ t.rspOut = v.rspOut ∧ sameToHost t v

/-- 41_sponge_commands.md section 1 (R121): n byte commands on a context constructed with rate r perform exactly
max(0, ceil(n / r) - 1) permutations. -/
def Obligations.ByteStreamPermutesOncePerFilledRate : Prop :=
  ∀ (rate : BitVec 16) (s : State), 1 ≤ rate.toNat → rate.toNat ≤ 255 →
    ∃ t, exec (.construct rate) s = .next t ∧
      ∀ is : List Instr, (∀ i ∈ is, isByteCommand i = true) →
        permutationCount is t = (is.length + rate.toNat - 1) / rate.toNat - 1

/-- 41_sponge_commands.md section 4 (R129): a second PAD does nothing but answer. -/
def Obligations.PadTwiceIsPadOnce : Prop :=
  ∀ s : State, s.valid = true →
    ∃ t, exec .pad s = .next t ∧ exec .pad t = .next { t with rspOut := t.rspOut ++ [0x00000000] }

/-- 41_sponge_commands.md section 4 (R131): a second SUM, with only SIZE, BLOCKSIZE, STATUS and SAVE in between, gives the
same digest. -/
def Obligations.SumTwiceGivesTheSameDigest : Prop :=
  ∀ (qs : List Instr) (s : State), s.valid = true →
    (∀ q ∈ qs, q = .size ∨ q = .blocksize ∨ q = .status ∨ q = .save) →
    ∃ t u v, exec .sum s = .next t ∧ runCommands qs t = .next u ∧ exec .sum u = .next v ∧
      v.rspOut.drop u.rspOut.length = t.rspOut.drop s.rspOut.length

/-- 41_sponge_commands.md section 3 (R125, R126): ENCRYPT p leaves the state ABSORB p leaves, but for the response; and
DECRYPT c leaves the state ENCRYPT of its own answer leaves. -/
def Obligations.EncryptAbsorbAndDecryptLeaveTheSameState : Prop :=
  ∀ (p c : Byte) (s : State), s.valid = true →
    (∃ t u, exec (.encrypt p) s = .next t ∧ exec (.absorb p) s = .next u ∧ t = { u with rspOut := t.rspOut }) ∧
    ∃ t u r, exec (.decrypt c) s = .next t ∧ t.rspOut = s.rspOut ++ [r] ∧
      exec (.encrypt ((responseData r).extractLsb' 0 8)) s = .next u ∧ u = { t with rspOut := u.rspOut }

/-- 30_encoding.md section 7 (R87), 70_reset_and_hazards.md section 3 (R203): AUTH_INIT with a rate the core takes leaves
the live context that CONSTRUCT and an ABSORB of each byte of the key leave, with the slot its copy and an OK response
for each command, and changes nothing else; with a rate the core refuses it sends nothing after its CONSTRUCT. That the
host stops there is as the model sends commands (log 17). -/
def Obligations.AuthInitSavesTheKeyedContextOrStops : Prop :=
  ∀ (rate : BitVec 16) (key : List Byte) (s : State),
    if 1 ≤ rate.toNat ∧ rate.toNat ≤ 255 then
      ∃ t keyed, runPseudo (.authInit rate key) s = .next t ∧
        runCommands (.construct rate :: key.map .absorb) s = .next keyed ∧
        keyed.valid = true ∧ keyed.rate.toNat = rate.toNat ∧
        t = { s with valid := true, rate := keyed.rate, cursor := keyed.cursor, blk := keyed.blk
                     ckValid := true, ckRate := keyed.rate, ckCursor := keyed.cursor, ckBlk := keyed.blk
                     rspOut := s.rspOut ++ List.replicate (key.length + 2) 0x00000000 }
    else runPseudo (.authInit rate key) s = exec (.construct rate) s

/-- 30_encoding.md section 7 (R87), 60_exceptions.md section 1 (R183): a buffer form sends min(len(dst), len(src)) commands,
command k carrying byte k of the source. -/
def Obligations.BufferFormsStopAtTheShorterLength : Prop :=
  ∀ (dstLen : Nat) (src : List Byte),
    (expand (.encbuf dstLen src)).length = min dstLen src.length ∧
    (expand (.decbuf dstLen src)).length = min dstLen src.length ∧
    (∀ k, k < dstLen → (expand (.encbuf dstLen src))[k]? = src[k]?.map Instr.encrypt) ∧
    (∀ k, k < dstLen → (expand (.decbuf dstLen src))[k]? = src[k]?.map Instr.decrypt) ∧
    expand (.encApply dstLen src) = expand (.encbuf dstLen src) ∧
    expand (.decApply dstLen src) = expand (.decbuf dstLen src)

/-- 10_state.md section 6 (R41): Reading B (process then check) gives the responses of Reading A for any commands, and
ends in the state of Reading A with its pending permutations run. The Reading B machine is the model's own, built from
R41 (log 19). -/
def Obligations.ProcessThenCheckGivesTheSameResponses : Prop :=
  ∀ (is : List Instr) (s : State), s.Inv →
    ∃ t u, runCommands is s = .next t ∧ runReadingB is s.settled = .next u ∧ u.rspOut = t.rspOut ∧ u = t.settled
end

