-- ==== Sys2Proof/Laws/Encoding.lean ====
section
/-!
SUPPORT. The fields of a 32-bit word put together from its three parts, for command words (R70) and response words (R78).
-/

namespace Sys2Proof.Machine

theorem highByte_append (a b : BitVec 8) (c : BitVec 16) : (a ++ b ++ c).extractLsb' 24 8 = a := by
  ext j hj
  simp only [BitVec.getElem_extractLsb', BitVec.getLsbD_append]
  grind

theorem midByte_append (a b : BitVec 8) (c : BitVec 16) : (a ++ b ++ c).extractLsb' 16 8 = b := by
  ext j hj
  simp only [BitVec.getElem_extractLsb', BitVec.getLsbD_append]
  grind

theorem lowHalf_append (a b : BitVec 8) (c : BitVec 16) : (a ++ b ++ c).extractLsb' 0 16 = c := by
  ext j hj
  simp only [BitVec.getElem_extractLsb', BitVec.getLsbD_append]
  grind

/-- A word is its three fields put together. -/
theorem append_fields (w : Word) : opcField w ++ rsvField w ++ argField w = w := by
  unfold opcField rsvField argField
  ext j hj
  simp only [BitVec.getElem_append, BitVec.getElem_extractLsb']
  grind

theorem toNat_append_fields (a b : BitVec 8) (c : BitVec 16) :
    (a ++ b ++ c).toNat = a.toNat * 2 ^ 24 + b.toNat * 2 ^ 16 + c.toNat := by
  rw [BitVec.toNat_append, BitVec.toNat_append, ← Nat.shiftLeft_add_eq_or_of_lt c.isLt, ← Nat.shiftLeft_add_eq_or_of_lt b.isLt]
  simp only [Nat.shiftLeft_eq]
  ring

@[simp] theorem responseStatus_responseWord (st : Status) (d : BitVec 16) : responseStatus (responseWord st d) = st.code :=
  highByte_append ..

@[simp] theorem responseRsv_responseWord (st : Status) (d : BitVec 16) : responseRsv (responseWord st d) = 0 :=
  midByte_append ..

@[simp] theorem responseData_responseWord (st : Status) (d : BitVec 16) : responseData (responseWord st d) = d :=
  lowHalf_append ..

/-- An OK response is its DATA with zeros above. -/
theorem responseWord_ok (d : BitVec 16) : responseWord .ok d = d.setWidth 32 := by
  apply BitVec.eq_of_toNat_eq
  unfold responseWord
  rw [toNat_append_fields]
  simp [Status.code]
  omega

/-- An OK response that carries a byte is that byte with zeros above. -/
theorem responseWord_ok_zext16 (b : Byte) : responseWord .ok (zext16 b) = b.setWidth 32 := by
  apply BitVec.eq_of_toNat_eq
  rw [responseWord_ok]
  simp [zext16]

/-- Every response word the model makes is one the core may emit. -/
@[simp] theorem legalResponse_responseWord (st : Status) (d : BitVec 16) : legalResponse (responseWord st d) = true := by
  rcases st with _ | _ | _ | _ | _ <;> simp [legalResponse, Status.code, ErrorKind.code]

@[simp] theorem opcField_encode (i : Instr) : opcField (encode i) = opcodeOf i.mnemonic := highByte_append ..

@[simp] theorem rsvField_encode (i : Instr) : rsvField (encode i) = 0 := midByte_append ..

@[simp] theorem argField_encode (i : Instr) : argField (encode i) = argOf i := lowHalf_append ..

/-- The opcode of a mnemonic names that mnemonic. -/
@[simp] theorem mnemonicOfOpcode_opcodeOf (m : Mnemonic) : mnemonicOfOpcode (opcodeOf m) = some m := by
  cases m <;> rfl

/-- An opcode that names a mnemonic is the opcode of that mnemonic. -/
theorem opcodeOf_of_mnemonicOfOpcode {opc : BitVec 8} {m : Mnemonic} (h : mnemonicOfOpcode opc = some m) :
    opc = opcodeOf m := by
  unfold mnemonicOfOpcode at h
  apply BitVec.eq_of_toNat_eq
  split at h <;> cases h <;> assumption

end Sys2Proof.Machine
end

