-- ==== Sys2Proof/Laws/Memory.lean ====
section
/-!
SUPPORT. The laws of the byte arrays: a read after a write, the canonical form kept by every operation, equal reads of
canonical arrays are equal arrays, and the two views of a block.
-/

namespace Sys2Proof.Machine

@[simp] theorem read_nil (a : Nat) : Memory.read [] a = 0 := rfl

@[simp] theorem wf_nil : Memory.wf [] = true := rfl

theorem wfFrom_cons_iff (lo a : Nat) (v : Byte) (rest : Memory) :
    Memory.wfFrom lo ((a, v) :: rest) = true ↔ lo ≤ a ∧ a < 256 ∧ v ≠ 0 ∧ Memory.wfFrom (a + 1) rest = true := by
  simp [Memory.wfFrom, and_assoc]

theorem wfFrom_mono {lo lo' : Nat} (h : lo ≤ lo') : ∀ {m : Memory}, Memory.wfFrom lo' m = true → Memory.wfFrom lo m = true
  | [], _ => rfl
  | (a, v) :: rest, hm => by
    rw [wfFrom_cons_iff] at hm ⊢
    exact ⟨h.trans hm.1, hm.2⟩

/-- Below its first address a canonical array reads as an unlisted byte. -/
theorem read_below : ∀ {m : Memory} {lo a : Nat}, Memory.wfFrom lo m = true → a < lo → m.read a = 0
  | [], _, _, _, _ => rfl
  | (k, v) :: rest, lo, a, hm, ha => by
    rw [wfFrom_cons_iff] at hm
    simp only [Memory.read, if_neg (by omega : ¬ k = a)]
    exact read_below hm.2.2.2 (by omega)

/-- No address above 255 exists: it reads as an unlisted byte in every canonical array. -/
theorem read_above : ∀ {m : Memory} {lo a : Nat}, Memory.wfFrom lo m = true → 256 ≤ a → m.read a = 0
  | [], _, _, _, _ => rfl
  | (k, v) :: rest, lo, a, hm, ha => by
    rw [wfFrom_cons_iff] at hm
    simp only [Memory.read, if_neg (by omega : ¬ k = a)]
    exact read_above hm.2.2.2 ha

theorem read_cons (a : Nat) (v : Byte) (rest : Memory) (lo : Nat) (h : Memory.wfFrom lo rest = true) (ha : a < lo) (b : Nat) :
    (Memory.cons a v rest).read b = if b = a then v else rest.read b := by
  unfold Memory.cons
  by_cases hv : v = 0
  · rw [if_pos hv]
    split
    · next hb => rw [hb, hv]; exact read_below h ha
    · rfl
  · rw [if_neg hv, Memory.read]
    by_cases hb : a = b
    · simp [hb]
    · rw [if_neg hb, if_neg (Ne.symm hb)]

theorem wfFrom_cons (a : Nat) (v : Byte) (rest : Memory) (lo : Nat) (h : Memory.wfFrom (a + 1) rest = true) (hlo : lo ≤ a)
    (ha : a < 256) : Memory.wfFrom lo (Memory.cons a v rest) = true := by
  unfold Memory.cons
  split
  · exact wfFrom_mono (by omega) h
  · next hv => exact (wfFrom_cons_iff ..).2 ⟨hlo, ha, hv, h⟩

theorem wfFrom_write : ∀ {m : Memory} {lo a : Nat} {v : Byte}, Memory.wfFrom lo m = true → lo ≤ a → a < 256 →
    Memory.wfFrom lo (m.write a v) = true
  | [], lo, a, v, _, hlo, ha => wfFrom_cons a v [] lo rfl hlo ha
  | (k, u) :: rest, lo, a, v, hm, hlo, ha => by
    rw [wfFrom_cons_iff] at hm
    obtain ⟨h1, h2, h3, h4⟩ := hm
    unfold Memory.write
    split
    · exact wfFrom_cons _ _ _ _ ((wfFrom_cons_iff ..).2 ⟨by omega, h2, h3, h4⟩) hlo ha
    · split
      · next hk => exact wfFrom_cons _ _ _ _ (hk ▸ h4) hlo ha
      · exact (wfFrom_cons_iff ..).2 ⟨h1, h2, h3, wfFrom_write h4 (by omega) ha⟩

/-- Writing a byte that exists keeps the canonical form. -/
theorem wf_write {m : Memory} {a : Nat} {v : Byte} (h : m.wf = true) (ha : a < 256) : (m.write a v).wf = true :=
  wfFrom_write h (Nat.zero_le a) ha

theorem read_write_from : ∀ {m : Memory} {lo a : Nat} {v : Byte} (b : Nat), Memory.wfFrom lo m = true →
    (m.write a v).read b = if b = a then v else m.read b
  | [], lo, a, v, b, _ => read_cons a v [] (a + 1) rfl (by omega) b
  | (k, u) :: rest, lo, a, v, b, hm => by
    have hm' := hm
    rw [wfFrom_cons_iff] at hm
    obtain ⟨h1, h2, h3, h4⟩ := hm
    unfold Memory.write
    split
    · exact read_cons _ _ _ k ((wfFrom_cons_iff ..).2 ⟨le_rfl, h2, h3, h4⟩) (by omega) b
    · split
      · next hk =>
        subst hk
        rw [read_cons _ _ _ (a + 1) h4 (by omega) b]
        by_cases hb : b = a
        · simp [hb]
        · rw [if_neg hb, if_neg hb, Memory.read, if_neg (Ne.symm hb)]
      · simp only [Memory.read, read_write_from b h4]
        by_cases hb : k = b
        · rw [if_pos hb, if_neg (by omega), if_pos hb]
        · rw [if_neg hb, if_neg hb]

/-- A read after a write: the byte written at its address, every other byte as before. -/
theorem read_write {m : Memory} (h : m.wf = true) (a : Nat) (v : Byte) (b : Nat) :
    (m.write a v).read b = if b = a then v else m.read b :=
  read_write_from b h

theorem wfFrom_ofBytesFrom : ∀ (bs : List Byte) (start : Nat), start + bs.length ≤ 256 →
    Memory.wfFrom start (Memory.ofBytesFrom start bs) = true
  | [], _, _ => rfl
  | b :: bs, start, h => by
    rw [List.length_cons] at h
    exact wfFrom_cons _ _ _ _ (wfFrom_ofBytesFrom bs (start + 1) (by omega)) le_rfl (by omega)

theorem read_ofBytesFrom : ∀ (bs : List Byte) (start a : Nat), start + bs.length ≤ 256 →
    (Memory.ofBytesFrom start bs).read a = if start ≤ a then bs.getD (a - start) 0 else 0
  | [], _, _, _ => by simp [Memory.ofBytesFrom]
  | b :: bs, start, a, h => by
    rw [List.length_cons] at h
    rw [Memory.ofBytesFrom, read_cons _ _ _ (start + 1) (wfFrom_ofBytesFrom bs (start + 1) (by omega)) (by omega),
      read_ofBytesFrom bs (start + 1) a (by omega)]
    rcases Nat.lt_trichotomy a start with ha | ha | ha
    · rw [if_neg (by omega), if_neg (by omega), if_neg (by omega)]
    · subst ha; simp
    · obtain ⟨d, rfl⟩ := Nat.exists_eq_add_of_lt ha
      rw [if_neg (by omega), if_pos (by omega), if_pos (by omega),
        show start + d + 1 - start = d + 1 by omega, show start + d + 1 - (start + 1) = d by omega, List.getD_cons_succ]

/-- The array of at most 256 bytes is canonical. -/
theorem wf_ofBytes {bs : List Byte} (h : bs.length ≤ 256) : (Memory.ofBytes bs).wf = true :=
  wfFrom_ofBytesFrom bs 0 (by omega)

/-- The array of at most 256 bytes holds them in order. -/
theorem read_ofBytes {bs : List Byte} (h : bs.length ≤ 256) (a : Nat) : (Memory.ofBytes bs).read a = bs.getD a 0 := by
  rw [Memory.ofBytes, read_ofBytesFrom bs 0 a (by omega), if_pos (Nat.zero_le a), Nat.sub_zero]

theorem ext_from : ∀ {m n : Memory} {lo : Nat}, Memory.wfFrom lo m = true → Memory.wfFrom lo n = true →
    (∀ a, m.read a = n.read a) → m = n
  | [], [], _, _, _, _ => rfl
  | [], (k, v) :: rest, lo, _, hn, h => by
    rw [wfFrom_cons_iff] at hn
    have := h k
    simp only [Memory.read, if_true] at this
    exact absurd this.symm hn.2.2.1
  | (k, v) :: rest, [], lo, hm, _, h => by
    rw [wfFrom_cons_iff] at hm
    have := h k
    simp only [Memory.read, if_true] at this
    exact absurd this hm.2.2.1
  | (k, v) :: rest, (l, u) :: rest', lo, hm, hn, h => by
    rw [wfFrom_cons_iff] at hm hn
    obtain ⟨m1, m2, m3, m4⟩ := hm
    obtain ⟨n1, n2, n3, n4⟩ := hn
    have hkl : k = l := by
      rcases Nat.lt_trichotomy k l with hlt | heq | hlt
      · have := h k
        simp only [Memory.read, if_true, if_neg (by omega : ¬ l = k), read_below n4 (by omega : k < l + 1)] at this
        exact absurd this m3
      · exact heq
      · have := h l
        simp only [Memory.read, if_true, if_neg (by omega : ¬ k = l), read_below m4 (by omega : l < k + 1)] at this
        exact absurd this.symm n3
    subst hkl
    have hv := h k
    simp only [Memory.read, if_true] at hv
    subst hv
    rw [ext_from m4 n4 fun a => ?_]
    by_cases ha : k = a
    · subst ha
      rw [read_below m4 (by omega), read_below n4 (by omega)]
    · have := h a
      simpa only [Memory.read, if_neg ha] using this

/-- Canonical arrays with the same byte at every address are equal. -/
theorem memory_ext {m n : Memory} (hm : m.wf = true) (hn : n.wf = true) (h : ∀ a, m.read a = n.read a) : m = n :=
  ext_from hm hn h

@[simp] theorem length_wordBytes (w : W64) : (wordBytes w).length = 8 := rfl

@[simp] theorem length_words (s : SubBlocks) : (SubBlocks.words s).length = 32 := rfl

theorem length_flatMap_wordBytes (ws : List W64) : (ws.flatMap wordBytes).length = 8 * ws.length := by
  induction ws with
  | nil => rfl
  | cons w ws ih => simp only [List.flatMap_cons, List.length_append, length_wordBytes, ih, List.length_cons]; omega

@[simp] theorem length_blockBytes (s : SubBlocks) : ((SubBlocks.words s).flatMap wordBytes).length = 256 := by
  rw [length_flatMap_wordBytes, length_words]

/-- A block written back from its sub-blocks is canonical. -/
theorem wf_ofSubBlocks (s : SubBlocks) : (Memory.ofSubBlocks s).wf = true := wf_ofBytes (length_blockBytes s).le

/-- The permuted block is canonical, whatever the block was. -/
theorem wf_perm (t : ArxTable) (m : Memory) : (perm t m).wf = true := wf_ofSubBlocks _

end Sys2Proof.Machine
end

