-- ==== Sys2Proof/Laws/State.lean ====
section
/-!
SUPPORT. What each update of the state leaves in each field, true by rfl: later proofs rewrite with these and unfold no
record update.
-/

namespace Sys2Proof.Machine

variable (s : State)

@[simp] theorem respond_valid (st : Status) (d : BitVec 16) : (s.respond st d).valid = s.valid := rfl
@[simp] theorem respond_rate (st : Status) (d : BitVec 16) : (s.respond st d).rate = s.rate := rfl
@[simp] theorem respond_cursor (st : Status) (d : BitVec 16) : (s.respond st d).cursor = s.cursor := rfl
@[simp] theorem respond_blk (st : Status) (d : BitVec 16) : (s.respond st d).blk = s.blk := rfl
@[simp] theorem respond_ckValid (st : Status) (d : BitVec 16) : (s.respond st d).ckValid = s.ckValid := rfl
@[simp] theorem respond_ckRate (st : Status) (d : BitVec 16) : (s.respond st d).ckRate = s.ckRate := rfl
@[simp] theorem respond_ckCursor (st : Status) (d : BitVec 16) : (s.respond st d).ckCursor = s.ckCursor := rfl
@[simp] theorem respond_ckBlk (st : Status) (d : BitVec 16) : (s.respond st d).ckBlk = s.ckBlk := rfl
@[simp] theorem respond_errlog (st : Status) (d : BitVec 16) : (s.respond st d).errlog = s.errlog := rfl
@[simp] theorem respond_rspOut (st : Status) (d : BitVec 16) : (s.respond st d).rspOut = s.rspOut ++ [responseWord st d] := rfl
@[simp] theorem respond_cmdIn (st : Status) (d : BitVec 16) : (s.respond st d).cmdIn = s.cmdIn := rfl
@[simp] theorem respond_host (st : Status) (d : BitVec 16) : (s.respond st d).host = s.host := rfl
@[simp] theorem respond_received (st : Status) (d : BitVec 16) : (s.respond st d).received = s.received := rfl

@[simp] theorem respondBytes_valid (bs : List Byte) : (s.respondBytes bs).valid = s.valid := rfl
@[simp] theorem respondBytes_rate (bs : List Byte) : (s.respondBytes bs).rate = s.rate := rfl
@[simp] theorem respondBytes_cursor (bs : List Byte) : (s.respondBytes bs).cursor = s.cursor := rfl
@[simp] theorem respondBytes_blk (bs : List Byte) : (s.respondBytes bs).blk = s.blk := rfl
@[simp] theorem respondBytes_ckValid (bs : List Byte) : (s.respondBytes bs).ckValid = s.ckValid := rfl
@[simp] theorem respondBytes_ckRate (bs : List Byte) : (s.respondBytes bs).ckRate = s.ckRate := rfl
@[simp] theorem respondBytes_ckCursor (bs : List Byte) : (s.respondBytes bs).ckCursor = s.ckCursor := rfl
@[simp] theorem respondBytes_ckBlk (bs : List Byte) : (s.respondBytes bs).ckBlk = s.ckBlk := rfl
@[simp] theorem respondBytes_errlog (bs : List Byte) : (s.respondBytes bs).errlog = s.errlog := rfl
@[simp] theorem respondBytes_rspOut (bs : List Byte) : (s.respondBytes bs).rspOut = s.rspOut ++ bs.map fun b => responseWord .ok (zext16 b) := rfl
@[simp] theorem respondBytes_cmdIn (bs : List Byte) : (s.respondBytes bs).cmdIn = s.cmdIn := rfl
@[simp] theorem respondBytes_host (bs : List Byte) : (s.respondBytes bs).host = s.host := rfl
@[simp] theorem respondBytes_received (bs : List Byte) : (s.respondBytes bs).received = s.received := rfl

@[simp] theorem raise_valid (e : ErrorKind) (d : BitVec 16) : (s.raise e d).valid = s.valid := rfl
@[simp] theorem raise_rate (e : ErrorKind) (d : BitVec 16) : (s.raise e d).rate = s.rate := rfl
@[simp] theorem raise_cursor (e : ErrorKind) (d : BitVec 16) : (s.raise e d).cursor = s.cursor := rfl
@[simp] theorem raise_blk (e : ErrorKind) (d : BitVec 16) : (s.raise e d).blk = s.blk := rfl
@[simp] theorem raise_ckValid (e : ErrorKind) (d : BitVec 16) : (s.raise e d).ckValid = s.ckValid := rfl
@[simp] theorem raise_ckRate (e : ErrorKind) (d : BitVec 16) : (s.raise e d).ckRate = s.ckRate := rfl
@[simp] theorem raise_ckCursor (e : ErrorKind) (d : BitVec 16) : (s.raise e d).ckCursor = s.ckCursor := rfl
@[simp] theorem raise_ckBlk (e : ErrorKind) (d : BitVec 16) : (s.raise e d).ckBlk = s.ckBlk := rfl
@[simp] theorem raise_errlog (e : ErrorKind) (d : BitVec 16) : (s.raise e d).errlog = logError s.errlog e := rfl
@[simp] theorem raise_rspOut (e : ErrorKind) (d : BitVec 16) : (s.raise e d).rspOut = s.rspOut ++ [responseWord (.error e) d] := rfl
@[simp] theorem raise_cmdIn (e : ErrorKind) (d : BitVec 16) : (s.raise e d).cmdIn = s.cmdIn := rfl
@[simp] theorem raise_host (e : ErrorKind) (d : BitVec 16) : (s.raise e d).host = s.host := rfl
@[simp] theorem raise_received (e : ErrorKind) (d : BitVec 16) : (s.raise e d).received = s.received := rfl

@[simp] theorem permute_valid : (s.permute).valid = s.valid := rfl
@[simp] theorem permute_rate : (s.permute).rate = s.rate := rfl
@[simp] theorem permute_cursor : (s.permute).cursor = 0 := rfl
@[simp] theorem permute_blk : (s.permute).blk = perm Config.arx s.blk := rfl
@[simp] theorem permute_ckValid : (s.permute).ckValid = s.ckValid := rfl
@[simp] theorem permute_ckRate : (s.permute).ckRate = s.ckRate := rfl
@[simp] theorem permute_ckCursor : (s.permute).ckCursor = s.ckCursor := rfl
@[simp] theorem permute_ckBlk : (s.permute).ckBlk = s.ckBlk := rfl
@[simp] theorem permute_errlog : (s.permute).errlog = s.errlog := rfl
@[simp] theorem permute_rspOut : (s.permute).rspOut = s.rspOut := rfl
@[simp] theorem permute_cmdIn : (s.permute).cmdIn = s.cmdIn := rfl
@[simp] theorem permute_host : (s.permute).host = s.host := rfl
@[simp] theorem permute_received : (s.permute).received = s.received := rfl

@[simp] theorem setByteAtCursor_valid (v : Byte) : (s.setByteAtCursor v).valid = s.valid := rfl
@[simp] theorem setByteAtCursor_rate (v : Byte) : (s.setByteAtCursor v).rate = s.rate := rfl
@[simp] theorem setByteAtCursor_cursor (v : Byte) : (s.setByteAtCursor v).cursor = s.cursor := rfl
@[simp] theorem setByteAtCursor_blk (v : Byte) : (s.setByteAtCursor v).blk = s.blk.write s.cursor.toNat v := rfl
@[simp] theorem setByteAtCursor_ckValid (v : Byte) : (s.setByteAtCursor v).ckValid = s.ckValid := rfl
@[simp] theorem setByteAtCursor_ckRate (v : Byte) : (s.setByteAtCursor v).ckRate = s.ckRate := rfl
@[simp] theorem setByteAtCursor_ckCursor (v : Byte) : (s.setByteAtCursor v).ckCursor = s.ckCursor := rfl
@[simp] theorem setByteAtCursor_ckBlk (v : Byte) : (s.setByteAtCursor v).ckBlk = s.ckBlk := rfl
@[simp] theorem setByteAtCursor_errlog (v : Byte) : (s.setByteAtCursor v).errlog = s.errlog := rfl
@[simp] theorem setByteAtCursor_rspOut (v : Byte) : (s.setByteAtCursor v).rspOut = s.rspOut := rfl
@[simp] theorem setByteAtCursor_cmdIn (v : Byte) : (s.setByteAtCursor v).cmdIn = s.cmdIn := rfl
@[simp] theorem setByteAtCursor_host (v : Byte) : (s.setByteAtCursor v).host = s.host := rfl
@[simp] theorem setByteAtCursor_received (v : Byte) : (s.setByteAtCursor v).received = s.received := rfl

@[simp] theorem advanceCursor_valid : (s.advanceCursor).valid = s.valid := rfl
@[simp] theorem advanceCursor_rate : (s.advanceCursor).rate = s.rate := rfl
@[simp] theorem advanceCursor_cursor : (s.advanceCursor).cursor = s.cursor + 1 := rfl
@[simp] theorem advanceCursor_blk : (s.advanceCursor).blk = s.blk := rfl
@[simp] theorem advanceCursor_ckValid : (s.advanceCursor).ckValid = s.ckValid := rfl
@[simp] theorem advanceCursor_ckRate : (s.advanceCursor).ckRate = s.ckRate := rfl
@[simp] theorem advanceCursor_ckCursor : (s.advanceCursor).ckCursor = s.ckCursor := rfl
@[simp] theorem advanceCursor_ckBlk : (s.advanceCursor).ckBlk = s.ckBlk := rfl
@[simp] theorem advanceCursor_errlog : (s.advanceCursor).errlog = s.errlog := rfl
@[simp] theorem advanceCursor_rspOut : (s.advanceCursor).rspOut = s.rspOut := rfl
@[simp] theorem advanceCursor_cmdIn : (s.advanceCursor).cmdIn = s.cmdIn := rfl
@[simp] theorem advanceCursor_host : (s.advanceCursor).host = s.host := rfl
@[simp] theorem advanceCursor_received : (s.advanceCursor).received = s.received := rfl

@[simp] theorem finishByte_valid (v : Byte) (d : BitVec 16) : (s.finishByte v d).valid = s.valid := rfl
@[simp] theorem finishByte_rate (v : Byte) (d : BitVec 16) : (s.finishByte v d).rate = s.rate := rfl
@[simp] theorem finishByte_cursor (v : Byte) (d : BitVec 16) : (s.finishByte v d).cursor = s.cursor + 1 := rfl
@[simp] theorem finishByte_blk (v : Byte) (d : BitVec 16) : (s.finishByte v d).blk = s.blk.write s.cursor.toNat v := rfl
@[simp] theorem finishByte_ckValid (v : Byte) (d : BitVec 16) : (s.finishByte v d).ckValid = s.ckValid := rfl
@[simp] theorem finishByte_ckRate (v : Byte) (d : BitVec 16) : (s.finishByte v d).ckRate = s.ckRate := rfl
@[simp] theorem finishByte_ckCursor (v : Byte) (d : BitVec 16) : (s.finishByte v d).ckCursor = s.ckCursor := rfl
@[simp] theorem finishByte_ckBlk (v : Byte) (d : BitVec 16) : (s.finishByte v d).ckBlk = s.ckBlk := rfl
@[simp] theorem finishByte_errlog (v : Byte) (d : BitVec 16) : (s.finishByte v d).errlog = s.errlog := rfl
@[simp] theorem finishByte_rspOut (v : Byte) (d : BitVec 16) : (s.finishByte v d).rspOut = s.rspOut ++ [responseWord .ok d] := rfl
@[simp] theorem finishByte_cmdIn (v : Byte) (d : BitVec 16) : (s.finishByte v d).cmdIn = s.cmdIn := rfl
@[simp] theorem finishByte_host (v : Byte) (d : BitVec 16) : (s.finishByte v d).host = s.host := rfl
@[simp] theorem finishByte_received (v : Byte) (d : BitVec 16) : (s.finishByte v d).received = s.received := rfl

@[simp] theorem freshContext_valid (r : BitVec 8) : (s.freshContext r).valid = true := rfl
@[simp] theorem freshContext_rate (r : BitVec 8) : (s.freshContext r).rate = r := rfl
@[simp] theorem freshContext_cursor (r : BitVec 8) : (s.freshContext r).cursor = 0 := rfl
@[simp] theorem freshContext_blk (r : BitVec 8) : (s.freshContext r).blk = [] := rfl
@[simp] theorem freshContext_ckValid (r : BitVec 8) : (s.freshContext r).ckValid = s.ckValid := rfl
@[simp] theorem freshContext_ckRate (r : BitVec 8) : (s.freshContext r).ckRate = s.ckRate := rfl
@[simp] theorem freshContext_ckCursor (r : BitVec 8) : (s.freshContext r).ckCursor = s.ckCursor := rfl
@[simp] theorem freshContext_ckBlk (r : BitVec 8) : (s.freshContext r).ckBlk = s.ckBlk := rfl
@[simp] theorem freshContext_errlog (r : BitVec 8) : (s.freshContext r).errlog = s.errlog := rfl
@[simp] theorem freshContext_rspOut (r : BitVec 8) : (s.freshContext r).rspOut = s.rspOut := rfl
@[simp] theorem freshContext_cmdIn (r : BitVec 8) : (s.freshContext r).cmdIn = s.cmdIn := rfl
@[simp] theorem freshContext_host (r : BitVec 8) : (s.freshContext r).host = s.host := rfl
@[simp] theorem freshContext_received (r : BitVec 8) : (s.freshContext r).received = s.received := rfl

@[simp] theorem clearContext_valid : (s.clearContext).valid = false := rfl
@[simp] theorem clearContext_rate : (s.clearContext).rate = 0 := rfl
@[simp] theorem clearContext_cursor : (s.clearContext).cursor = 0 := rfl
@[simp] theorem clearContext_blk : (s.clearContext).blk = [] := rfl
@[simp] theorem clearContext_ckValid : (s.clearContext).ckValid = s.ckValid := rfl
@[simp] theorem clearContext_ckRate : (s.clearContext).ckRate = s.ckRate := rfl
@[simp] theorem clearContext_ckCursor : (s.clearContext).ckCursor = s.ckCursor := rfl
@[simp] theorem clearContext_ckBlk : (s.clearContext).ckBlk = s.ckBlk := rfl
@[simp] theorem clearContext_errlog : (s.clearContext).errlog = s.errlog := rfl
@[simp] theorem clearContext_rspOut : (s.clearContext).rspOut = s.rspOut := rfl
@[simp] theorem clearContext_cmdIn : (s.clearContext).cmdIn = s.cmdIn := rfl
@[simp] theorem clearContext_host : (s.clearContext).host = s.host := rfl
@[simp] theorem clearContext_received : (s.clearContext).received = s.received := rfl

@[simp] theorem saveContext_valid : (s.saveContext).valid = s.valid := rfl
@[simp] theorem saveContext_rate : (s.saveContext).rate = s.rate := rfl
@[simp] theorem saveContext_cursor : (s.saveContext).cursor = s.cursor := rfl
@[simp] theorem saveContext_blk : (s.saveContext).blk = s.blk := rfl
@[simp] theorem saveContext_ckValid : (s.saveContext).ckValid = true := rfl
@[simp] theorem saveContext_ckRate : (s.saveContext).ckRate = s.rate := rfl
@[simp] theorem saveContext_ckCursor : (s.saveContext).ckCursor = s.cursor := rfl
@[simp] theorem saveContext_ckBlk : (s.saveContext).ckBlk = s.blk := rfl
@[simp] theorem saveContext_errlog : (s.saveContext).errlog = s.errlog := rfl
@[simp] theorem saveContext_rspOut : (s.saveContext).rspOut = s.rspOut := rfl
@[simp] theorem saveContext_cmdIn : (s.saveContext).cmdIn = s.cmdIn := rfl
@[simp] theorem saveContext_host : (s.saveContext).host = s.host := rfl
@[simp] theorem saveContext_received : (s.saveContext).received = s.received := rfl

@[simp] theorem restoreContext_valid : (s.restoreContext).valid = true := rfl
@[simp] theorem restoreContext_rate : (s.restoreContext).rate = s.ckRate := rfl
@[simp] theorem restoreContext_cursor : (s.restoreContext).cursor = s.ckCursor := rfl
@[simp] theorem restoreContext_blk : (s.restoreContext).blk = s.ckBlk := rfl
@[simp] theorem restoreContext_ckValid : (s.restoreContext).ckValid = s.ckValid := rfl
@[simp] theorem restoreContext_ckRate : (s.restoreContext).ckRate = s.ckRate := rfl
@[simp] theorem restoreContext_ckCursor : (s.restoreContext).ckCursor = s.ckCursor := rfl
@[simp] theorem restoreContext_ckBlk : (s.restoreContext).ckBlk = s.ckBlk := rfl
@[simp] theorem restoreContext_errlog : (s.restoreContext).errlog = s.errlog := rfl
@[simp] theorem restoreContext_rspOut : (s.restoreContext).rspOut = s.rspOut := rfl
@[simp] theorem restoreContext_cmdIn : (s.restoreContext).cmdIn = s.cmdIn := rfl
@[simp] theorem restoreContext_host : (s.restoreContext).host = s.host := rfl
@[simp] theorem restoreContext_received : (s.restoreContext).received = s.received := rfl

@[simp] theorem hardReset_valid : (s.hardReset).valid = false := rfl
@[simp] theorem hardReset_rate : (s.hardReset).rate = 0 := rfl
@[simp] theorem hardReset_cursor : (s.hardReset).cursor = 0 := rfl
@[simp] theorem hardReset_blk : (s.hardReset).blk = [] := rfl
@[simp] theorem hardReset_ckValid : (s.hardReset).ckValid = false := rfl
@[simp] theorem hardReset_ckRate : (s.hardReset).ckRate = 0 := rfl
@[simp] theorem hardReset_ckCursor : (s.hardReset).ckCursor = 0 := rfl
@[simp] theorem hardReset_ckBlk : (s.hardReset).ckBlk = [] := rfl
@[simp] theorem hardReset_errlog : (s.hardReset).errlog = 0 := rfl
@[simp] theorem hardReset_rspOut : (s.hardReset).rspOut = [] := rfl
@[simp] theorem hardReset_cmdIn : (s.hardReset).cmdIn = s.cmdIn := rfl
@[simp] theorem hardReset_host : (s.hardReset).host = s.host := rfl
@[simp] theorem hardReset_received : (s.hardReset).received = s.received := rfl

@[simp] theorem nextCycle_valid : (s.nextCycle).valid = s.valid := rfl
@[simp] theorem nextCycle_rate : (s.nextCycle).rate = s.rate := rfl
@[simp] theorem nextCycle_cursor : (s.nextCycle).cursor = s.cursor := rfl
@[simp] theorem nextCycle_blk : (s.nextCycle).blk = s.blk := rfl
@[simp] theorem nextCycle_ckValid : (s.nextCycle).ckValid = s.ckValid := rfl
@[simp] theorem nextCycle_ckRate : (s.nextCycle).ckRate = s.ckRate := rfl
@[simp] theorem nextCycle_ckCursor : (s.nextCycle).ckCursor = s.ckCursor := rfl
@[simp] theorem nextCycle_ckBlk : (s.nextCycle).ckBlk = s.ckBlk := rfl
@[simp] theorem nextCycle_errlog : (s.nextCycle).errlog = s.errlog := rfl
@[simp] theorem nextCycle_rspOut : (s.nextCycle).rspOut = s.rspOut := rfl
@[simp] theorem nextCycle_cmdIn : (s.nextCycle).cmdIn = s.cmdIn := rfl
@[simp] theorem nextCycle_host : (s.nextCycle).host = s.host.tail := rfl
@[simp] theorem nextCycle_received : (s.nextCycle).received = s.received := rfl

@[simp] theorem offerWord_valid (w : Word) : (s.offerWord w).valid = s.valid := rfl
@[simp] theorem offerWord_rate (w : Word) : (s.offerWord w).rate = s.rate := rfl
@[simp] theorem offerWord_cursor (w : Word) : (s.offerWord w).cursor = s.cursor := rfl
@[simp] theorem offerWord_blk (w : Word) : (s.offerWord w).blk = s.blk := rfl
@[simp] theorem offerWord_ckValid (w : Word) : (s.offerWord w).ckValid = s.ckValid := rfl
@[simp] theorem offerWord_ckRate (w : Word) : (s.offerWord w).ckRate = s.ckRate := rfl
@[simp] theorem offerWord_ckCursor (w : Word) : (s.offerWord w).ckCursor = s.ckCursor := rfl
@[simp] theorem offerWord_ckBlk (w : Word) : (s.offerWord w).ckBlk = s.ckBlk := rfl
@[simp] theorem offerWord_errlog (w : Word) : (s.offerWord w).errlog = s.errlog := rfl
@[simp] theorem offerWord_rspOut (w : Word) : (s.offerWord w).rspOut = [] := rfl
@[simp] theorem offerWord_cmdIn (w : Word) : (s.offerWord w).cmdIn = w :: s.cmdIn := rfl
@[simp] theorem offerWord_host (w : Word) : (s.offerWord w).host = HostCycle.attentive :: s.host.tail := rfl
@[simp] theorem offerWord_received (w : Word) : (s.offerWord w).received = s.received := rfl

end Sys2Proof.Machine
end

