-- ==== Sys2Proof/Laws/Ops.lean ====
section
/-!
SUPPORT. What each shared operation can do, said once: the state check, the trigger check, the PAD, and that every
command answers a next state whose arrays stay canonical.
-/

namespace Sys2Proof.Machine

/-- The state check: the command's own effect on a valid context, NOT_CONFIGURED on an invalid one (R172). -/
theorem needContext_cases (s : State) (run : State → State) :
    (s.valid = true ∧ s.needContext run = run s) ∨
      (s.valid = false ∧ s.needContext run = s.raise .notConfigured 0) := by
  unfold State.needContext
  cases s.valid <;> simp

theorem needContext_valid {s : State} (h : s.valid = true) (run : State → State) : s.needContext run = run s := by
  simp [State.needContext, h]

theorem needContext_invalid {s : State} (h : s.valid = false) (run : State → State) :
    s.needContext run = s.raise .notConfigured 0 := by
  simp [State.needContext, h]

/-- The trigger check: at CURSOR = RATE the block is permuted and CURSOR is 0, else nothing happens (R120). -/
theorem trigger_cases (s : State) :
    (s.cursor = s.rate ∧ s.trigger = s.permute) ∨ (s.cursor ≠ s.rate ∧ s.trigger = s) := by
  unfold State.trigger
  split
  all_goals simp_all

/-- The PAD: above CURSOR 0 the block is permuted and CURSOR is 0, else nothing happens (R128). -/
theorem padBlock_cases (s : State) :
    (s.cursor ≠ 0 ∧ s.padBlock = s.permute) ∨ (s.cursor = 0 ∧ s.padBlock = s) := by
  unfold State.padBlock
  split
  all_goals simp_all

/-- The trigger check writes BLK and CURSOR alone. -/
theorem trigger_frame (s : State) : s.trigger = { s with blk := s.trigger.blk, cursor := s.trigger.cursor } := by
  rcases trigger_cases s with ⟨_, h⟩ | ⟨_, h⟩
  · rw [h]; rfl
  · rw [h]

/-- The PAD writes BLK and CURSOR alone. -/
theorem padBlock_frame (s : State) : s.padBlock = { s with blk := s.padBlock.blk, cursor := s.padBlock.cursor } := by
  rcases padBlock_cases s with ⟨_, h⟩ | ⟨_, h⟩
  · rw [h]; rfl
  · rw [h]

/-- On a valid context with CURSOR at most RATE, the trigger check leaves CURSOR below RATE. -/
theorem trigger_cursor_lt {s : State} (h : 1 ≤ s.rate.toNat) (hc : s.cursor.toNat ≤ s.rate.toNat) :
    s.trigger.cursor.toNat < s.rate.toNat := by
  rcases trigger_cases s with ⟨_, e⟩ | ⟨hne, e⟩
  · rw [e]; exact h
  · rw [e]; exact lt_of_le_of_ne hc fun he => hne (BitVec.eq_of_toNat_eq he)

@[simp] theorem trigger_valid (s : State) : s.trigger.valid = s.valid := by rw [trigger_frame]
@[simp] theorem trigger_rate (s : State) : s.trigger.rate = s.rate := by rw [trigger_frame]
@[simp] theorem trigger_ckValid (s : State) : s.trigger.ckValid = s.ckValid := by rw [trigger_frame]
@[simp] theorem trigger_ckRate (s : State) : s.trigger.ckRate = s.ckRate := by rw [trigger_frame]
@[simp] theorem trigger_ckCursor (s : State) : s.trigger.ckCursor = s.ckCursor := by rw [trigger_frame]
@[simp] theorem trigger_ckBlk (s : State) : s.trigger.ckBlk = s.ckBlk := by rw [trigger_frame]
@[simp] theorem trigger_errlog (s : State) : s.trigger.errlog = s.errlog := by rw [trigger_frame]
@[simp] theorem trigger_rspOut (s : State) : s.trigger.rspOut = s.rspOut := by rw [trigger_frame]
@[simp] theorem trigger_cmdIn (s : State) : s.trigger.cmdIn = s.cmdIn := by rw [trigger_frame]
@[simp] theorem trigger_host (s : State) : s.trigger.host = s.host := by rw [trigger_frame]
@[simp] theorem trigger_received (s : State) : s.trigger.received = s.received := by rw [trigger_frame]

@[simp] theorem padBlock_valid (s : State) : s.padBlock.valid = s.valid := by rw [padBlock_frame]
@[simp] theorem padBlock_rate (s : State) : s.padBlock.rate = s.rate := by rw [padBlock_frame]
@[simp] theorem padBlock_ckValid (s : State) : s.padBlock.ckValid = s.ckValid := by rw [padBlock_frame]
@[simp] theorem padBlock_ckRate (s : State) : s.padBlock.ckRate = s.ckRate := by rw [padBlock_frame]
@[simp] theorem padBlock_ckCursor (s : State) : s.padBlock.ckCursor = s.ckCursor := by rw [padBlock_frame]
@[simp] theorem padBlock_ckBlk (s : State) : s.padBlock.ckBlk = s.ckBlk := by rw [padBlock_frame]
@[simp] theorem padBlock_errlog (s : State) : s.padBlock.errlog = s.errlog := by rw [padBlock_frame]
@[simp] theorem padBlock_rspOut (s : State) : s.padBlock.rspOut = s.rspOut := by rw [padBlock_frame]
@[simp] theorem padBlock_cmdIn (s : State) : s.padBlock.cmdIn = s.cmdIn := by rw [padBlock_frame]
@[simp] theorem padBlock_host (s : State) : s.padBlock.host = s.host := by rw [padBlock_frame]
@[simp] theorem padBlock_received (s : State) : s.padBlock.received = s.received := by rw [padBlock_frame]

/-- The trigger check keeps BLK canonical. -/
theorem wf_trigger {s : State} (h : s.blk.wf = true) : s.trigger.blk.wf = true := by
  rcases trigger_cases s with ⟨_, e⟩ | ⟨_, e⟩ <;> rw [e]
  · exact wf_perm _ _
  · exact h

/-- The PAD keeps BLK canonical. -/
theorem wf_padBlock {s : State} (h : s.blk.wf = true) : s.padBlock.blk.wf = true := by
  rcases padBlock_cases s with ⟨_, e⟩ | ⟨_, e⟩ <;> rw [e]
  · exact wf_perm _ _
  · exact h

/-- Writing the byte at the cursor keeps BLK canonical. -/
theorem wf_finishByte {s : State} (h : s.blk.wf = true) (v : Byte) (d : BitVec 16) : (s.finishByte v d).blk.wf = true := by
  rw [finishByte_blk]
  exact wf_write h s.cursor.isLt

/-- The byte at the cursor after a byte command's write, and every other byte (R58). -/
theorem read_finishByte {s : State} (h : s.blk.wf = true) (v : Byte) (d : BitVec 16) (a : Nat) :
    (s.finishByte v d).blk.read a = if a = s.cursor.toNat then v else s.blk.read a := by
  rw [finishByte_blk]
  exact read_write h ..

/-- The registers and arrays of the core, the host's side left out. -/
def coreOnly (s : State) : State := { s with rspOut := [], cmdIn := [], host := [], received := [] }

/-- An error changes no register or array of the core but ERRLOG (R173). -/
theorem coreOnly_raise (s : State) (e : ErrorKind) (d : BitVec 16) :
    coreOnly (s.raise e d) = { coreOnly s with errlog := logError s.errlog e } := rfl

end Sys2Proof.Machine
end

