-- ==== Sys2Proof/Laws/Exec.lean ====
section
/-!
SUPPORT. What a command, a word, a run of commands and a step can do, said once: each answers a next state, and this is
it. Later proofs cite these and unfold no meaning.
-/

namespace Sys2Proof.Machine

/-- The state each command answers. -/
def effect (i : Instr) (s : State) : State :=
  match i with
  | .construct rate =>
    if rateAccepted rate then (s.freshContext (rateRegister rate)).respond .ok 0 else s.raise .configError rate
  | .absorb b => s.needContext fun s => s.trigger.finishByte (s.trigger.byteAtCursor ^^^ b) 0
  | .squeeze => s.needContext fun s => s.trigger.advanceCursor.respond .ok (zext16 s.trigger.byteAtCursor)
  | .encrypt p =>
    s.needContext fun s => s.trigger.finishByte (s.trigger.byteAtCursor ^^^ p) (zext16 (s.trigger.byteAtCursor ^^^ p))
  | .decrypt c => s.needContext fun s => s.trigger.finishByte c (zext16 (s.trigger.byteAtCursor ^^^ c))
  | .pad => s.needContext fun s => s.padBlock.respond .ok 0
  | .sum => s.needContext fun s => s.padBlock.respondBytes (s.padBlock.blk.firstBytes s.padBlock.rate.toNat)
  | .reset => s.clearContext.respond .ok 0
  | .save => s.needContext fun s => s.saveContext.respond .ok 0
  | .restore => if s.ckValid then s.restoreContext.respond .ok 0 else s.raise .noCheckpoint 0
  | .size => s.needContext fun s => s.respond .ok (zext16 s.rate)
  | .blocksize => s.needContext fun s => s.respond .ok (capacityData s.rate)
  | .status => s.respond .ok (statusView s)

/-- Every command answers its effect. -/
theorem exec_eq (i : Instr) (s : State) : exec i s = .next (effect i s) := by
  cases i <;> rfl

/-- The state a command word answers: the effect of its command, or ILLEGAL. -/
def wordEffect (w : Word) (s : State) : State :=
  match decode w with
  | .ok i => effect i s
  | .error _ => s.raise .illegal 0

/-- Every command word answers its effect. -/
theorem runWord_eq (w : Word) (s : State) : runWord w s = .next (wordEffect w s) := by
  unfold runWord wordEffect
  cases decode w with
  | ok i => exact exec_eq i s
  | error e => rfl

/-- A run of commands is their effects one after another. -/
theorem runCommands_eq : ∀ (is : List Instr) (s : State), runCommands is s = .next (is.foldl (fun s i => effect i s) s)
  | [], _ => rfl
  | i :: is, s => by
    rw [runCommands, exec_eq]
    exact runCommands_eq is _

/-- A run of commands, then another, is the run of both. -/
theorem runCommands_append (is js : List Instr) (s t : State) (h : runCommands is s = .next t) :
    runCommands (is ++ js) s = runCommands js t := by
  rw [runCommands_eq] at h ⊢
  rw [runCommands_eq, List.foldl_append]
  cases h
  rfl

/-- The state a step answers under the host's levels `c`. -/
def cycleEffect (c : HostCycle) (s : State) : State :=
  if c.rst then s.hardReset
  else
    match s.rspOut, s.cmdIn with
    | r :: rest, _ => if c.rspReady then { s with rspOut := rest, received := s.received ++ [r] } else s
    | [], w :: rest => if c.cmdValid then wordEffect w { s with cmdIn := rest } else s
    | [], [] => s

/-- What a step can do: hardware reset, one response taken, one command word run, or nothing but the cycle. -/
theorem step_eq (s : State) : step s = .next (cycleEffect s.hostCycle s.nextCycle) := by
  unfold step cycle cycleUnder cycleEffect acceptCommand State.deliverResponse State.rspValid
  rcases hr : s.nextCycle.rspOut with _ | ⟨r, rest⟩ <;> rcases hc : s.nextCycle.cmdIn with _ | ⟨w, ws⟩ <;>
    simp [runWord_eq] <;> split <;> simp_all <;> split <;> rfl

/-- A run of the machine, one step more: every step answers a next state, and the run goes on from it. -/
theorem run_succ (n : Nat) (s : State) :
    Host.Core.run core (n + 1) s = Host.Core.run core n (cycleEffect s.hostCycle s.nextCycle) := by
  have h : core.step s = .next (cycleEffect s.hostCycle s.nextCycle) := step_eq s
  simp only [Host.Core.run, h]

/-- A step of hardware reset resets the core and uses the cycle up. -/
theorem step_of_rst {s : State} (h : s.hostCycle.rst = true) : step s = .next s.nextCycle.hardReset := by
  rw [step_eq, cycleEffect, if_pos h]

/-- Any other step takes one response, or runs one command word, or does nothing but use the cycle up. -/
theorem step_cases {s t : State} (hr : s.hostCycle.rst = false) (h : step s = .next t) :
    (∃ r rest, s.rspOut = r :: rest ∧
      t = { s with rspOut := rest, received := s.received ++ [r], host := s.host.tail }) ∨
    t = { s with host := s.host.tail } ∨
    (∃ w rest, s.rspOut = [] ∧ s.cmdIn = w :: rest ∧
      t = wordEffect w { s with cmdIn := rest, host := s.host.tail }) := by
  rw [step_eq, cycleEffect, hr] at h
  cases h
  obtain ⟨v, r, c, b, cv, cr, cc, cb, e, ro, ci, ho, re⟩ := s
  rcases ro with _ | ⟨r, rest⟩ <;> rcases ci with _ | ⟨w, ws⟩ <;>
    simp only [Bool.false_eq_true, if_false, nextCycle_rspOut, nextCycle_cmdIn]
  · exact .inr (.inl rfl)
  · split
    · exact .inr (.inr ⟨w, ws, by trivial, rfl, rfl⟩)
    · exact .inr (.inl rfl)
  all_goals
    split
    · exact .inl ⟨r, rest, rfl, rfl⟩
    · exact .inr (.inl rfl)

end Sys2Proof.Machine
end

