-- ==== Sys2Proof/Laws/PerInstr.lean ====
section
/-!
SUPPORT. Statements made of every command, one lemma a constructor. The family `EncodingFields`: the word of a command has
the command's opcode in OPC, 0 in RSV and the command's operand in ARG (R70, R72 to R75, R77).
-/

namespace Sys2Proof.Laws.EncodingFields

/-- The three fields of the command's word. -/
def Statement (i : Instr) : Prop :=
  opcField (encode i) = opcodeOf i.mnemonic ∧ rsvField (encode i) = 0 ∧ argField (encode i) = argOf i

theorem every (i : Instr) : Statement i :=
  ⟨Machine.opcField_encode i, Machine.rsvField_encode i, Machine.argField_encode i⟩

theorem construct (rate : BitVec 16) : Statement (.construct rate) := every _
theorem absorb (b : Byte) : Statement (.absorb b) := every _
theorem squeeze : Statement .squeeze := every _
theorem encrypt (p : Byte) : Statement (.encrypt p) := every _
theorem decrypt (c : Byte) : Statement (.decrypt c) := every _
theorem pad : Statement .pad := every _
theorem sum : Statement .sum := every _
theorem reset : Statement .reset := every _
theorem save : Statement .save := every _
theorem restore : Statement .restore := every _
theorem size : Statement .size := every _
theorem blocksize : Statement .blocksize := every _
theorem status : Statement .status := every _

end Sys2Proof.Laws.EncodingFields
end

