-- ==== Sys2Proof/Laws/ReadingB.lean ====
section
/-!
SUPPORT. What a command does under Reading B, said once.
-/

namespace Sys2Proof.Machine

/-- Reading B differs from Reading A in the byte commands alone. -/
theorem execReadingB_of_not_byte {i : Instr} (h : isByteCommand i = false) (s : State) :
    execReadingB i s = exec i s := by
  cases i <;> first | rfl | cases h

/-- On a valid context with nothing pending, a byte command under Reading B is the one under Reading A and then the
trigger check. -/
theorem execReadingB_of_byte {i : Instr} (h : isByteCommand i = true) {s : State} (hv : s.valid = true)
    (hc : s.cursor ≠ s.rate) : execReadingB i s = .next (effect i s).trigger := by
  have ht : s.trigger = s := if_neg hc
  cases i <;> simp [isByteCommand] at h <;> simp only [execReadingB, effect, needContext_valid hv, ht]

/-- On an invalid context every command is as under Reading A. -/
theorem execReadingB_of_invalid (i : Instr) {s : State} (hv : s.valid = false) : execReadingB i s = exec i s := by
  cases i <;> simp only [execReadingB, exec_eq, effect, needContext_invalid hv]

end Sys2Proof.Machine
end

