-- ==== Sys2Proof/Tests/Slice0.lean ====
section
/-!
SUPPORT. Tests: words and values written out from the spec (the vectors named are those of 95_test_vectors.md), and for
every statement with hypotheses a concrete state and operands that meet them, a clause at its boundary values.
-/

namespace Sys2Proof.Tests

open Sys2Proof Sys2Proof.Machine

/-! ## Encoding (30_encoding.md section 2: OPC, RSV, ARG; the operand bits as a reader writes them) -/

theorem test_decode_construct : decode 0b00000001_00000000_0000000011111111 = .ok (.construct 255) := by decide
theorem test_decode_absorb : decode 0b00000010_00000000_00000000_10011001 = .ok (.absorb 0x99) := by decide
theorem test_decode_squeeze : decode 0b00000011_00000000_0000000000000000 = .ok .squeeze := by decide
theorem test_decode_encrypt : decode 0b00000100_00000000_00000000_01000001 = .ok (.encrypt 0x41) := by decide
theorem test_decode_decrypt : decode 0b00000101_00000000_00000000_00011011 = .ok (.decrypt 0x1B) := by decide
theorem test_decode_pad : decode 0b00000110_00000000_0000000000000000 = .ok .pad := by decide
theorem test_decode_sum : decode 0b00000111_00000000_0000000000000000 = .ok .sum := by decide
theorem test_decode_reset : decode 0b00001000_00000000_0000000000000000 = .ok .reset := by decide
theorem test_decode_save : decode 0b00001001_00000000_0000000000000000 = .ok .save := by decide
theorem test_decode_restore : decode 0b00001010_00000000_0000000000000000 = .ok .restore := by decide
theorem test_decode_size : decode 0b00001011_00000000_0000000000000000 = .ok .size := by decide
theorem test_decode_blocksize : decode 0b00001100_00000000_0000000000000000 = .ok .blocksize := by decide
theorem test_decode_status : decode 0b00001101_00000000_0000000000000000 = .ok .status := by decide

/-- R71, R82: the opcodes on either side of the map. -/
theorem test_refuse_reserved_opcode :
    decode 0x00000000 = .error .reservedOpcode ∧ decode 0x0E000000 = .error .reservedOpcode ∧
    decode 0xFF000000 = .error .reservedOpcode := by decide

/-- R72, R74, R75, and the order of R76: the opcode is checked before RSV, RSV before the operand. -/
theorem test_refuse_fields :
    decode 0x01010004 = .error .reservedField ∧ decode 0x02000100 = .error .byteFormHighArg ∧
    decode 0x0D000001 = .error .noOperandFormArg ∧ decode 0x0E010000 = .error .reservedOpcode ∧
    decode 0x06800001 = .error .reservedField := by decide

theorem test_table_word : decodeTableWord 32 0x02000099 = some (.absorb 0x99) ∧ decodeTableWord 32 0 = none := by decide

/-! ## Well-formed lines (R85) -/

/-- One ill-formed line a check: a rate or a byte too great or negative, an operand missing, an operand too many. -/
theorem test_ill_formed_lines :
    (AsmLine.mk .construct (some 65536)).wellFormed = false ∧ (AsmLine.mk .construct (some (-1))).wellFormed = false ∧
    (AsmLine.mk .construct none).wellFormed = false ∧ (AsmLine.mk .absorb (some 256)).wellFormed = false ∧
    (AsmLine.mk .decrypt (some (-1))).wellFormed = false ∧ (AsmLine.mk .encrypt none).wellFormed = false ∧
    (AsmLine.mk .squeeze (some 0)).wellFormed = false := by decide

theorem test_well_formed_lines :
    (AsmLine.mk .construct (some 65535)).toInstr = some (.construct 65535) ∧
    (AsmLine.mk .absorb (some 255)).toInstr = some (.absorb 255) ∧
    (AsmLine.mk .sum none).toInstr = some .sum := by decide

/-- V-E1, V-F3C, and a comment and a line refused. -/
theorem test_assemble :
    assembleLine "ENCRYPT 0x41".toList = some 0x04000041 ∧ assembleLine "CONSTRUCT 256 ; refused later".toList =
      some 0x01000100 ∧ assembleLine "SQUEEZE".toList = some 0x03000000 ∧ assembleLine "ABSORB 256".toList = none ∧
    assembleLine "SQUEEZE 0".toList = none := by decide +kernel

/-- V-F3C, response 1, as R86 writes it. -/
theorem test_show_response :
    showResponse 0x01000100 =
      some (Char.ofNat 123 :: "CONFIG_ERROR, 0x0100".toList ++ [Char.ofNat 125]) := by decide +kernel

/-! ## The permutation -/

/-- TC0 and TC1 of 95_test_vectors.md section 2: neither is the hardware's. -/
def tc0 : ArxTable := ⟨fun _ => ⟨0, 0, 0, 0⟩, fun _ _ => ⟨0, 0, 0, 0, 0, 0, 0, 0⟩⟩

/-- A word of TC1: `k` times `unit`, modulo 2^64. -/
def tc1Word (unit k : Nat) : W64 := BitVec.ofNat 64 (k * unit)

def tc1 : ArxTable where
  cq r :=
    let q := fun i => tc1Word 0x0101010101010101 (4 * r.val + i + 1)
    ⟨q 0, q 1, q 2, q 3⟩
  mc r _ :=
    let c := fun m => tc1Word 0x1000000000000001 (8 * r.val + m + 1)
    ⟨c 0, c 1, c 2, c 3, c 4, c 5, c 6, c 7⟩

/-- V-R24 and V-R32, in both over-shift modes. -/
theorem test_rotl_overshift :
    rotlMode .zero 0xFFFFFFFFFFFFFFFF 59 = 0xF800000000000000 ∧
    rotlMode .mod64 0xFFFFFFFFFFFFFFFF 59 = 0xF800000007FFFFFF ∧ rotl 0x0123456789ABCDEF 59 = 0x7800000000000000 := by
  decide

/-- V-R33, V-R35: rotl is not injective, and at 31 its two parts overlap. -/
theorem test_rotl_low :
    rotl 0x0000000100000001 7 = 0x0000008000000080 ∧ rotl 0x0000000100000000 7 = 0x0000008000000080 ∧
    rotl 0x8000000000000001 31 = 0x4000000080000000 := by decide

/-- V-M1. -/
theorem test_mix :
    mix ⟨0, 0, 0, 0, 0, 0, 0, 0⟩ ⟨1, 2, 3, 4⟩ ⟨5, 6, 7, 8⟩ =
      ⟨0x980002440038A304, 0x992000040AB8A004, 0x012002440A80A304, 0x992002400AB80300⟩ := by decide

/-- V-P7: bytes 0..7 and 248..255 of Perm(zero block) under TC1. -/
theorem test_perm_zero_tc1 :
    (perm tc1 []).wordAt 0 = 0x74417EFD953657BC ∧ (perm tc1 []).wordAt 31 = 0x67FC6A471F949F26 := by decide +kernel

/-- V-P3: bytes 0..7 and 248..255 of Perm(0x11, then zeros) under TC0. -/
theorem test_perm_byte_tc0 :
    (perm tc0 [(0, 0x11)]).wordAt 0 = 0x28BAEBADEFB5D74B ∧ (perm tc0 [(0, 0x11)]).wordAt 31 = 0x8D4B8612DF4F063F := by
  decide +kernel

/-! ## Memory -/

/-- R50, R58: writing 0x00 removes the cell, so that equal arrays are equal lists. -/
theorem test_memory_canonical :
    Memory.write (Memory.write [] 255 7) 3 9 = [(3, 9), (255, 7)] ∧ Memory.write [(3, 9), (255, 7)] 3 0 = [(255, 7)] ∧
    Memory.read [(3, 9), (255, 7)] 4 = 0 := by decide

/-! ## One command each -/

/-- A valid context of rate 4 with `cursor` and the block bytes `bytes`. -/
def context (cursor : BitVec 8) (bytes : List Byte) : State :=
  { State.reset with valid := true, rate := 4, cursor, blk := Memory.ofBytes bytes }

/-- A context beside a checkpoint of rate 8, cursor 2. -/
def parked : State := { context 1 [0x5A] with ckValid := true, ckRate := 8, ckCursor := 2, ckBlk := [(0, 0x11)] }

/-- The state after a command that answers a next state. -/
def after (i : Instr) (s : State) : State := (nextState (exec i s)).getD s

/-- V-F2C and V-F3C, step 1. -/
theorem test_construct :
    after (.construct 255) State.reset = { State.reset with valid := true, rate := 255, rspOut := [0x00000000] } ∧
    after (.construct 256) State.reset = { State.reset with errlog := 0b0001, rspOut := [0x01000100] } := by decide

/-- V-F4C, step 3: the old context goes. -/
theorem test_construct_discards :
    after (.construct 8) (context 1 [0x99]) = { State.reset with valid := true, rate := 8, rspOut := [0] } := by decide

/-- V-A2, step 5: the byte that fills the rate runs no permutation. -/
theorem test_absorb : after (.absorb 4) (context 3 [1, 2, 3]) = { context 4 [1, 2, 3, 4] with rspOut := [0] } := by decide

theorem test_absorb_unconfigured :
    after (.absorb 4) State.reset = { State.reset with errlog := 0b0010, rspOut := [0x02000000] } := by decide

/-- R124: the byte at CURSOR, BLK as it was. -/
theorem test_squeeze :
    after .squeeze (context 1 [0x11, 0xFE]) = { context 2 [0x11, 0xFE] with rspOut := [0x000000FE] } := by decide

/-- V-A3's condition: at CURSOR = RATE the check empties CURSOR before the byte. -/
theorem test_squeeze_pending : (after .squeeze (context 4 [1])).cursor = 1 := by decide

/-- The examples of R125 and V-E1. -/
theorem test_encrypt :
    after (.encrypt 0x41) (context 1 [0x5A, 0]) = { context 2 [0x5A, 0x41] with rspOut := [0x00000041] } ∧
    after (.encrypt 0x41) (context 1 [0, 0x5A]) = { context 2 [0, 0x1B] with rspOut := [0x0000001B] } := by decide

/-- R126 with BLK[CURSOR] = 0x5A, c = 0x1B, and V-E2. -/
theorem test_decrypt :
    after (.decrypt 0x1B) (context 0 [0x5A]) = { context 1 [0x1B] with rspOut := [0x00000041] } ∧
    after (.decrypt 0x1B) (context 1 [0x5A, 0]) = { context 2 [0x5A, 0x1B] with rspOut := [0x0000001B] } := by decide

/-- R128: at CURSOR = 0 only the answer. -/
theorem test_pad_nothing : after .pad (context 0 [0x11]) = { context 0 [0x11] with rspOut := [0] } := by decide

theorem test_pad : (after .pad (context 3 [0x11])).cursor = 0 ∧ (after .pad (context 3 [0x11])).rspOut = [0] := by
  rw [after, exec_eq]
  simp [nextState, effect, context, State.reset, State.needContext, State.padBlock]
  decide

/-- R130: RATE responses, lowest index first; the byte at index 4 stays inside. -/
theorem test_sum :
    after .sum (context 0 [1, 2, 3, 4, 5]) = { context 0 [1, 2, 3, 4, 5] with rspOut := [1, 2, 3, 4] } := by decide

/-- R132: the slot and ERRLOG stay. -/
theorem test_reset :
    after .reset { parked with errlog := 0b1001 } =
      { State.reset with ckValid := true, ckRate := 8, ckCursor := 2, ckBlk := [(0, 0x11)], errlog := 0b1001
                         rspOut := [0] } := by decide

/-- R150. -/
theorem test_save :
    after .save (context 3 [7]) =
      { context 3 [7] with ckValid := true, ckRate := 4, ckCursor := 3, ckBlk := [(0, 7)], rspOut := [0] } := by decide

/-- R151: the slot keeps its copy; and R174. -/
theorem test_restore :
    after .restore parked = { parked with rate := 8, cursor := 2, blk := [(0, 0x11)], rspOut := [0] } ∧
    after .restore (context 1 [9]) = { context 1 [9] with errlog := 0b0100, rspOut := [0x03000000] } := by decide

/-- R152, V-F5C step 4. -/
theorem test_size : after .size (context 1 []) = { context 1 [] with rspOut := [4] } := by decide

/-- R153: 256 - 1 = 255 and 256 - 255 = 1. -/
theorem test_blocksize :
    (after .blocksize { context 0 [] with rate := 1 }).rspOut = [255] ∧
    (after .blocksize { context 0 [] with rate := 255 }).rspOut = [1] := by decide

/-- R154, V-F3C step 3; and with VALID, CK_VALID and every error logged. -/
theorem test_status :
    (after .status { State.reset with errlog := 0b0001 }).rspOut = [0x00000010] ∧
    (after .status { parked with errlog := 0b1111 }).rspOut = [0x000000F3] := by decide

/-! ## The step -/

/-- R76, R175: a word no opcode names. -/
theorem test_illegal_word :
    nextState (step (State.reset.withFetchWord 32 0x0E000000)) =
      some { State.reset with errlog := 0b1000, rspOut := [0x04000000] } := by decide

/-- V-F1C through the port. -/
theorem test_step_construct :
    nextState (step (State.reset.withFetchWord 32 0x01000001)) =
      some { State.reset with valid := true, rate := 1, rspOut := [0] } := by decide

/-- R187: a held response keeps the next command out; and it leaves when the host accepts it. -/
theorem test_step_hold :
    nextState (step { State.reset with rspOut := [9], cmdIn := [0x0D000000], host := [⟨false, true, false⟩] }) =
      some { State.reset with rspOut := [9], cmdIn := [0x0D000000] } ∧
    nextState (step { State.reset with rspOut := [9], cmdIn := [0x0D000000] }) =
      some { State.reset with cmdIn := [0x0D000000], received := [9] } := by decide

/-- R195, R196: rst beats a waiting response. -/
theorem test_step_rst :
    nextState (step { parked with errlog := 0b0100, rspOut := [9], host := [⟨true, true, true⟩] }) = some State.reset := by
  decide

/-- R41: the ABSORB that fills the rate of V-A2 leaves CURSOR = 4 under Reading A, and 0 under Reading B. -/
theorem test_readings_differ_inside :
    (after (.absorb 4) (context 3 [1, 2, 3])).cursor = 4 ∧
    ((nextState (execReadingB (.absorb 4) (context 3 [1, 2, 3]))).getD State.reset).cursor = 0 := by decide

/-! ## Pseudo-operations (R87) -/

theorem test_expand :
    expand (.authInit 16 [0xAB]) = [.construct 16, .absorb 0xAB, .save] ∧
    expand (.decbuf 1 [0x10, 0x20]) = [.decrypt 0x10] ∧ expand (.read 2) = [.squeeze, .squeeze] ∧
    expand .clone = [.save] ∧ expand .authReset = [.restore] ∧
    expand (.authenticate [1]) = [.absorb 1, .sum] ∧ expand (.sump [0xFF]) = [.sum] := by decide

/-- R87, R181: the prefix is the host's; the first error ends the operation. -/
theorem test_host_result :
    hostResult (.sump [0xFF]) [0x00000012, 0x00000034] = .bytes [0xFF, 0x12, 0x34] ∧
    hostResult (.write [1, 2]) [0, 0x02000000] = .failed 0x02000000 := by decide

/-! ## States that meet each statement's hypotheses -/

/-- Every clause of R76 accepts, and every clause refuses. -/
theorem test_witness_words :
    (wordAccepted 0x0100FFFF ∧ wordAccepted 0x020000FF ∧ wordAccepted 0x0D000000) ∧ wordAccepted 0x00000000 = false ∧
    wordAccepted 0x0E000000 = false ∧ wordAccepted 0x01010000 = false ∧ wordAccepted 0x05000100 = false ∧
    wordAccepted 0x0D000001 = false := by decide

theorem test_witness_DecodedWordIsItsCommandsWord : decode 0x0100FFFF = .ok (.construct 0xFFFF) := by decide

/-- EncodedCommandDecodesToItself at the ends of each operand field. -/
theorem test_witness_encode_bounds :
    encode (.construct 0xFFFF) = 0x0100FFFF ∧ encode (.absorb 0xFF) = 0x020000FF ∧ encode (.decrypt 0) = 0x05000000 := by
  decide

/-- AssemblerTakesExactlyTheOperandsThatFit: the values either side of each bound. -/
theorem test_witness_operands :
    ([-1, 0, 65535, 65536].map fun n : Int => decide (0 ≤ n ∧ n ≤ 65535)) = [false, true, true, false] ∧
    ([-1, 0, 255, 256].map fun n : Int => decide (0 ≤ n ∧ n ≤ 255)) = [false, true, true, false] := by decide

/-- ForwardPassChainsUpward, BackwardPassChainsDownward: the first and the last pair of sub-blocks. -/
theorem test_witness_chain : (1 : Fin 8).val = (0 : Fin 8).val + 1 ∧ (7 : Fin 8).val = (6 : Fin 8).val + 1 := by decide

/-- The block statements: a canonical array with a byte at either end, the last index of each range. -/
theorem test_witness_block :
    Memory.wf [(0, 1), (255, 2)] = true ∧ (3 < 4 ∧ 7 < 8) ∧ (perm tc0 []).wf = true := by decide +kernel

/-- EqualBlocksPermuteEqually: two lists that read alike, one not canonical. -/
theorem test_witness_EqualBlocks : ∀ a < 256, Memory.read [(0, 1)] a = Memory.read [(0, 1), (1, 0)] a := by
  decide +kernel

/-- TriggerCheckPrecedesEveryByte: a byte command at CURSOR = RATE and below it. -/
theorem test_witness_Trigger :
    isByteCommand .squeeze = true ∧ (context 4 []).valid = true ∧ (context 4 []).rate ≠ 0 ∧
    (context 4 []).cursor = (context 4 []).rate ∧ (context 3 []).cursor ≠ (context 3 []).rate := by decide

/-- ConstructMakesAZeroContextOrRefusesTheRate, AuthInitSavesTheKeyedContextOrStops, ByteStreamPermutesOncePerFilledRate:
the rates where their clauses meet. -/
theorem test_witness_rates :
    ([0, 1, 255, 256, 65535].map fun r : BitVec 16 => decide (1 ≤ r.toNat ∧ r.toNat ≤ 255)) =
      [false, true, true, false, false] := by decide

/-- Every result statement of a context command: VALID = 0, VALID = 1 with a canonical block, below and at RATE; the
laws of sequences need no more than VALID = 1. -/
theorem test_witness_context :
    State.reset.valid = false ∧ (context 1 [7]).valid = true ∧ (context 1 [7]).blk.wf = true ∧
    (context 4 [7]).valid = true ∧ (context 4 [7]).blk.wf = true := by decide

/-- PadPermutesUnlessTheCursorIsZero, SumAnswersTheRatePartAfterThePad: CURSOR 0 and above, an index below RATE. -/
theorem test_witness_pad :
    ¬(context 0 []).cursor.toNat > 0 ∧ (context 1 []).cursor.toNat > 0 ∧ 3 < (context 0 []).rate.toNat := by decide

/-- RestoreCopiesTheSlotToTheContext: both values of CK_VALID. -/
theorem test_witness_Restore : parked.ckValid = true ∧ State.reset.ckValid = false := by decide

/-- BlocksizeAnswersTheCapacity: the invariant at the least and the greatest rate. -/
theorem test_witness_Blocksize :
    State.LiveInv { context 0 [] with rate := 1 } ∧ State.LiveInv { context 255 [] with rate := 255 } := by decide

/-- EveryCommandGivesItsNumberOfResponses: a SUM that answers RATE words, one that answers an error, and another command. -/
theorem test_witness_EveryCommandGives :
    exec .sum (context 0 [1]) = .next { context 0 [1] with rspOut := [1, 0, 0, 0] } ∧
    exec .sum State.reset = .next { State.reset with errlog := 0b0010, rspOut := [0x02000000] } ∧
    exec .size (context 0 [1]) = .next { context 0 [1] with rspOut := [4] } := ⟨rfl, rfl, rfl⟩

/-- ErrorsChangeNothingButTheirLogBit, EachErrorHasItsOneCause: each of the four errors, and an answer OK. -/
theorem test_witness_errors :
    runWord 0x01000100 State.reset = .next { State.reset with errlog := 1, rspOut := [0x01000100] } ∧
    runWord 0x03000000 State.reset = .next { State.reset with errlog := 2, rspOut := [0x02000000] } ∧
    runWord 0x0A000000 State.reset = .next { State.reset with errlog := 4, rspOut := [0x03000000] } ∧
    runWord 0x00000000 State.reset = .next { State.reset with errlog := 8, rspOut := [0x04000000] } ∧
    runWord 0x0D000000 State.reset = .next { State.reset with rspOut := [0] } ∧
    [0x01000100, 0x02000000, 0x03000000, 0x04000000].all (fun r => decide (responseStatus r ≠ 0)) = true :=
  ⟨rfl, rfl, rfl, rfl, rfl, by decide⟩

/-- ErrorLogIsStickyAndComplete: a step without reset that meets a bit already set. -/
theorem test_witness_ErrorLogIsSticky :
    State.hostCycle { State.reset with errlog := 8 } = HostCycle.attentive ∧
    step { State.reset with errlog := 8 } = .next { State.reset with errlog := 8 } ∧
    (8 : BitVec 4).getLsbD 3 = true := ⟨rfl, rfl, rfl⟩

/-- ErrorLogReachesNothingButStatus: an error raised with another log before it. -/
theorem test_witness_ErrorLogReaches :
    Instr.squeeze ≠ .status ∧
    exec .squeeze State.reset = .next { State.reset with errlog := 2, rspOut := [0x02000000] } := ⟨by decide, rfl⟩

/-- A state whose host offers a STATUS word with nothing waiting. -/
def offering : State := { State.reset with cmdIn := [0x0D000000] }

/-- StepRunsTheDecodedCommand, EveryCommandCompletesWithinItsResponses. -/
theorem test_witness_StepRuns :
    offering.hostCycle.rst = false ∧ offering.hostCycle.cmdValid = true ∧ offering.rspOut = [] ∧ offering.host = [] ∧
    offering.cmdIn = [0x0D000000] ∧ decode 0x0D000000 = .ok .status := by decide

/-- CoreTakesACommandOnlyWhenIdle: no reset, and each of its five arms. -/
theorem test_witness_CoreTakes :
    ([(parked, [], []), (parked, [⟨false, true, false⟩], [1]), (parked, [⟨false, false, true⟩], [1]),
        (parked, [⟨false, false, true⟩], []), (parked, [⟨false, true, true⟩], [])] :
        List (State × List HostCycle × List Word)).all
      (fun p => !(State.hostCycle { p.1 with host := p.2.1, rspOut := p.2.2 }).rst) = true := by decide

/-- HardwareResetZeroesTheCore, and the reset clauses of the other statements. -/
theorem test_witness_HardwareReset :
    (State.hostCycle { parked with host := [⟨true, false, false⟩] }).rst = true := rfl

/-- ResponsesLeaveInCommandOrder: a step whose word answers, so that `new` is not empty. -/
theorem test_witness_ResponsesLeave :
    offering.hostCycle.rst = false ∧ step offering = .next { State.reset with rspOut := [0] } := ⟨rfl, rfl⟩

/-- EveryStepKeepsTheInvariant: a state with a context, a checkpoint, a logged error and a response, and its step. -/
theorem test_witness_EveryStepKeeps :
    State.Inv { parked with errlog := 4, rspOut := [0x03000000] } ∧
    step { parked with errlog := 4, rspOut := [0x03000000] } =
      .next { parked with errlog := 4, received := [0x03000000] } := ⟨by decide, rfl⟩

/-- SlotChangesOnlyBySaveOrHardwareReset: a SAVE's step, a step under reset, and CK_VALID = 0. -/
theorem test_witness_SlotChanges :
    step { context 1 [] with cmdIn := [0x09000000] } =
      .next { context 1 [] with ckValid := true, ckRate := 4, ckCursor := 1, rspOut := [0] } ∧
    step { parked with host := [⟨true, true, true⟩] } = .next State.reset ∧ parked.ckValid = true ∧
    (context 1 []).ckValid = false := ⟨rfl, rfl, rfl, rfl⟩

/-- StateChangesOnlyByItsNamedWriters: SIZE meets the premises of all four clauses. -/
theorem test_witness_StateChanges :
    exec .size parked = .next { parked with rspOut := [4] } ∧ (∀ rate, Instr.size ≠ .construct rate) ∧
    isByteCommand .size = false ∧ responseStatus 4 = 0 :=
  ⟨rfl, fun _ => nofun, rfl, by decide⟩

/-- ValidRisesAndFallsOnlyByItsCommands: VALID rising by either command, falling by RESET, and by a step. -/
theorem test_witness_ValidRises :
    (after (.construct 1) State.reset).valid = true ∧
    (after .restore { parked with valid := false }).valid = true ∧ (after .reset parked).valid = false ∧
    ((nextState (step { parked with cmdIn := [0x08000000] })).map State.valid) = some false := by decide

/-- BlockIsPermutedExactlyWhereDue: a permutation due and not due. -/
theorem test_witness_BlockIsPermuted :
    permutes .squeeze (context 4 [1]) = true ∧ permutes .squeeze (context 3 [1]) = false ∧
    permutes .pad (context 1 [1]) = true ∧ (context 4 [1]).blk.wf = true := by decide

/-- ByteCommandsStayInsideTheRatePart: at CURSOR = RATE = 255, and at rate 1. -/
theorem test_witness_ByteCommandsStay :
    State.LiveInv { context 255 [1] with rate := 255 } ∧ State.LiveInv { context 1 [1] with rate := 1 } ∧
    (context 1 [1]).blk.wf = true ∧ isByteCommand (.absorb 0) = true := by decide

/-- CapacityIsNotExposedBetweenPermutations: two contexts of rate 4 that differ at index 4. -/
theorem test_witness_Capacity :
    sameBelowRate (context 1 [9]) (context 1 [9, 0, 0, 0, 7]) ∧ State.LiveInv (context 1 [9]) ∧
    (context 1 [9]).blk ≠ (context 1 [9, 0, 0, 0, 7]).blk ∧ (context 1 [9, 0, 0, 0, 7]).blk.wf = true ∧
    permutes .squeeze (context 1 [9]) = false := by
  refine ⟨⟨rfl, fun a ha => ?_⟩, by decide, by decide, by decide, by decide⟩
  have ha : a < 4 := ha
  interval_cases a <;> rfl

/-- DecryptUndoesEncrypt: the same context in two states that are not equal. -/
theorem test_witness_DecryptUndoes :
    sameContext (context 4 [1]) { context 4 [1] with errlog := 3, rspOut := [5] } ∧ (context 4 [1]).valid = true :=
  ⟨⟨rfl, rfl, rfl, rfl⟩, rfl⟩

/-- RestoreBringsBackWhatSaveKept: commands with no SAVE among them. -/
theorem test_witness_RestoreBrings :
    ∀ i ∈ [Instr.construct 9, .absorb 1, .reset, .restore], i ≠ .save := by decide

/-- PendingAndDonePermutationsAreIndistinguishable: a context with a pending permutation, and the same after it has run;
the first of them is a start of ProcessThenCheckGivesTheSameResponses too. -/
theorem test_witness_PendingAndDone :
    State.Inv (context 4 [1]) ∧ State.Inv (context 4 [1]).permute ∧ sameToHost (context 4 [1]) (context 4 [1]).permute := by
  refine ⟨by decide, ⟨?_, ?_, ?_, ?_⟩, ?_⟩
  case refine_3 => exact ⟨by simpa [State.permute] using wf_perm _ _, rfl⟩
  all_goals simp [sameToHost, State.ResponsesLegal,
    State.LiveInv, State.SlotInv, State.settled, State.permute, context, State.reset]

/-- ByteStreamPermutesOncePerFilledRate: a stream of byte commands. -/
theorem test_witness_ByteStream :
    ∀ i ∈ [Instr.absorb 1, .squeeze, .encrypt 2, .decrypt 3], isByteCommand i = true := by decide

/-- SumTwiceGivesTheSameDigest: what may stand between the two. -/
theorem test_witness_SumTwice :
    ∀ q ∈ [Instr.size, .blocksize, .status, .save], q = .size ∨ q = .blocksize ∨ q = .status ∨ q = .save := by decide

/-- BufferFormsStopAtTheShorterLength: an index the source has, and one it has not. -/
theorem test_witness_BufferForms :
    (expand (.encbuf 2 [7]))[0]? = some (.encrypt 7) ∧ (expand (.encbuf 2 [7]))[1]? = none := by decide

end Sys2Proof.Tests
end

/-!
SUPPORT. The bits of the STATUS view (R36) and of the word STATUS answers (R154).
-/

namespace Sys2Proof.Machine

/-- ERRLOG has four bits, so the view has none of it from bit 8 up (R35, R36). -/
theorem errlog_getLsbD_sub_four_of_ge (s : State) {k : Nat} (h : 8 ≤ k) : s.errlog.getLsbD (k - 4) = false :=
  BitVec.getLsbD_of_ge _ _ (by omega)

/-- The STATUS view bit by bit: ERRLOG from bit 4 up, CK_VALID in bit 1, VALID in bit 0 (R36). -/
theorem getLsbD_statusView (s : State) (k : Nat) :
    (statusView s).getLsbD k =
      (decide (4 ≤ k) && s.errlog.getLsbD (k - 4) || decide (k = 1) && s.ckValid || decide (k = 0) && s.valid) := by
  have errlog_high : 8 ≤ k → s.errlog.getLsbD (k - 4) = false := errlog_getLsbD_sub_four_of_ge s
  simp only [statusView, BitVec.getLsbD_or, BitVec.getLsbD_shiftLeft, BitVec.getLsbD_setWidth, BitVec.getLsbD_ofBool]
  grind

/-- An OK response has the bits of its DATA and zeros above them (R78). -/
theorem getLsbD_responseWord_ok (d : BitVec 16) (k : Nat) : (responseWord .ok d).getLsbD k = d.getLsbD k := by
  rw [responseWord_ok, BitVec.getLsbD_setWidth]
  exact Bool.and_eq_right_iff_imp.mpr fun h => decide_eq_true (by have := BitVec.lt_of_getLsbD h; omega)

/-- Settles O28: the answered word is the STATUS view with zeros above, read off bit by bit. -/
theorem statusAnswersTheFlagsBitByBit : Obligations.StatusAnswersTheFlagsBitByBit := by
  intro s
  refine ⟨responseWord .ok (statusView s), exec_eq .status s, ?_⟩
  simp only [getLsbD_responseWord_ok, getLsbD_statusView]
  refine ⟨by simp, by simp, by simp, by simp, fun k _ => ?errlog, fun k hk => ?reserved⟩
  case errlog =>
    have above_flags : 4 + k ≠ 1 := by omega
    simp [above_flags]
  case reserved =>
    have above_flags : k ≠ 0 ∧ k ≠ 1 := by omega
    simp [above_flags, errlog_getLsbD_sub_four_of_ge s hk]

end Sys2Proof.Machine

/-!
SUPPORT. The block's two views (R52, R53): a byte of a word, a word of a sub-block, and a byte of the block written back.
-/

namespace Sys2Proof.Machine

/-- In lists of one length put end to end, item `b` of the `n`-th list stands at `c * n + b`. -/
theorem getD_flatMap_of_length_eq {α β : Type} {f : α → List β} {c b : Nat} (hf : ∀ x, (f x).length = c) (hb : b < c)
    (d : β) : ∀ (l : List α) (n : Nat) (hn : n < l.length), (l.flatMap f).getD (c * n + b) d = (f l[n]).getD b d
  | x :: xs, 0, _ => by
    rw [List.flatMap_cons, List.getD_append _ _ _ _ (by rw [hf]; omega)]
    simp
  | x :: xs, n + 1, hn => by
    have past_head : c * (n + 1) + b = c + (c * n + b) := by ring
    rw [List.flatMap_cons, List.getD_append_right _ _ _ _ (by rw [hf]; omega), hf, past_head, Nat.add_sub_cancel_left]
    exact getD_flatMap_of_length_eq hf hb d xs n (Nat.lt_of_succ_lt_succ hn)

/-- A byte shifted up by `n` inside a word is the word's byte from bit `n` on. -/
theorem extractLsb'_placedByte_same (b : Byte) {n : Nat} (hn : n ≤ 56) :
    (b.setWidth 64 <<< n).extractLsb' n 8 = b := by
  ext j hj
  have in_word : n + j < 64 := by omega
  simp [in_word, BitVec.getLsbD_eq_getElem hj]

/-- A byte shifted up by `n` leaves zero in every byte of the word that does not overlap it. -/
theorem extractLsb'_placedByte_apart (b : Byte) {n p : Nat} (h : n + 8 ≤ p ∨ p + 8 ≤ n) :
    (b.setWidth 64 <<< n).extractLsb' p 8 = 0#8 := by
  ext j hj
  have outside : p + j < n ∨ 8 ≤ p + j - n := by omega
  rcases outside with below | above
  · simp [below]
  · simp [above]

/-- Byte `k` of word `w` is byte `8w+k` of the block (R52). -/
theorem extractLsb'_wordAt (m : Memory) (w : Nat) {k : Nat} (hk : k < 8) :
    (m.wordAt w).extractLsb' (56 - 8 * k) 8 = m.read (8 * w + k) := by
  have lowest (b : Byte) : b.setWidth 64 = b.setWidth 64 <<< 0 := (BitVec.shiftLeft_zero _).symm
  rw [Memory.wordAt, lowest (m.read (8 * w + 7))]
  simp only [BitVec.extractLsb'_or]
  interval_cases k <;>
    simp (disch := omega) only [extractLsb'_placedByte_same, extractLsb'_placedByte_apart, BitVec.or_zero, BitVec.zero_or,
      Nat.add_zero]

/-- Byte `b` of a word is its bits `63-8b` to `56-8b` (R52). -/
theorem getD_wordBytes (w : W64) {b : Nat} (hb : b < 8) : (wordBytes w).getD b 0 = w.extractLsb' (56 - 8 * b) 8 := by
  interval_cases b <;> rfl

theorem subBlock_toSubBlocks (m : Memory) (i : Fin 8) : subBlock m.toSubBlocks i = m.subBlockAt i.val := by
  fin_cases i <;> rfl

/-- Word `k` of sub-block `i` is word `4i+k` of the block (R53). -/
theorem getD_words_subBlockAt (m : Memory) (i : Nat) {k : Nat} (hk : k < 4) :
    (SubBlock.words (m.subBlockAt i)).getD k 0 = m.wordAt (4 * i + k) := by
  interval_cases k <;> rfl

@[simp] theorem length_subBlockWords (s : SubBlock) : (SubBlock.words s).length = 4 := rfl

theorem words_eq_flatMap (s : SubBlocks) : SubBlocks.words s = (List.ofFn (subBlock s)).flatMap SubBlock.words := rfl

/-- Word `4i+k` of the words put in a row is word `k` of sub-block `i` (R53). -/
theorem getD_words (s : SubBlocks) (i : Fin 8) {k : Nat} (hk : k < 4) :
    (SubBlocks.words s).getD (4 * i.val + k) 0 = (SubBlock.words (subBlock s i)).getD k 0 := by
  rw [words_eq_flatMap, getD_flatMap_of_length_eq length_subBlockWords hk 0 _ i.val (by simp), List.getElem_ofFn]

/-- Byte `8w+b` of a block written back is byte `b` of word `w` (R52). -/
theorem read_ofSubBlocks (s : SubBlocks) {w b : Nat} (hw : w < 32) (hb : b < 8) :
    (Memory.ofSubBlocks s).read (8 * w + b) = ((SubBlocks.words s).getD w 0).extractLsb' (56 - 8 * b) 8 := by
  rw [Memory.ofSubBlocks, read_ofBytes (length_blockBytes s).le,
    getD_flatMap_of_length_eq length_wordBytes hb 0 _ w (by simpa using hw), getD_wordBytes _ hb, List.getD_eq_getElem]

/-- Settles O11: the bytes of a word, the words of a sub-block, and the bytes written back, each by its own law. -/
theorem blockIsBigEndianWordsInRowMajorOrder : Obligations.BlockIsBigEndianWordsInRowMajorOrder := by
  refine ⟨fun m w k hk => extractLsb'_wordAt m w hk, fun m i k hk => ?words, fun s i k b hk hb => ?bytes⟩
  case words => rw [subBlock_toSubBlocks, getD_words_subBlockAt m i hk]
  case bytes => rw [read_ofSubBlocks s (by omega) hb, getD_words s i hk]

end Sys2Proof.Machine

/-!
SUPPORT. The checks of R76 and the decoder: a word that passes them all decodes to the command whose word it is, any other
word decodes to no command; and the word of a command as its opcode above its operand (R77).
-/

namespace Sys2Proof.Machine

/-- The check of R73 to R75 on ARG: none for a rate, ARG[15:8] = 0 for a byte, ARG = 0 where there is no operand. -/
def argFits : Form → BitVec 16 → Prop
  | .rate, _ => True
  | .byte, arg => arg.extractLsb' 8 8 = 0
  | .noOperand, arg => arg = 0

/-- An ARG whose high byte is 0 is its low byte with zeros above (R74). -/
theorem setWidth_lowByte_of_highByte_eq_zero {arg : BitVec 16} (h : arg.extractLsb' 8 8 = 0) :
    (arg.extractLsb' 0 8).setWidth 16 = arg := by
  apply BitVec.eq_of_toNat_eq
  have high_zero := congrArg BitVec.toNat h
  simp only [BitVec.extractLsb'_toNat, BitVec.toNat_setWidth, BitVec.ofNat_eq_ofNat, BitVec.toNat_ofNat,
    Nat.shiftRight_eq_div_pow, Nat.reducePow, Nat.zero_mod, pow_zero, Nat.div_one] at high_zero ⊢
  omega

theorem decodeByteForm_of_argFits {arg : BitVec 16} (h : argFits .byte arg) (mk : Byte → Instr) :
    decodeByteForm arg mk = .ok (mk (arg.extractLsb' 0 8)) := if_pos h

theorem decodeNoOperandForm_of_argFits {arg : BitVec 16} (h : argFits .noOperand arg) (i : Instr) :
    decodeNoOperandForm arg i = .ok i := if_pos h

/-- An ARG the form of a mnemonic allows is the operand field of a command of that mnemonic. -/
theorem exists_decodeArg_eq_ok {m : Mnemonic} {arg : BitVec 16} (h : argFits m.form arg) :
    ∃ i, decodeArg m arg = .ok i ∧ i.mnemonic = m ∧ argOf i = arg := by
  cases m
  case construct => exact ⟨.construct arg, rfl, rfl, rfl⟩
  case absorb | encrypt | decrypt =>
    exact ⟨_, decodeByteForm_of_argFits h _, rfl, setWidth_lowByte_of_highByte_eq_zero h⟩
  all_goals exact ⟨_, decodeNoOperandForm_of_argFits h _, rfl, h.symm⟩

/-- An ARG the form of a mnemonic does not allow is the operand field of no command of that mnemonic. -/
theorem exists_decodeArg_eq_error {m : Mnemonic} {arg : BitVec 16} (h : ¬ argFits m.form arg) :
    ∃ e, decodeArg m arg = .error e := by
  cases m
  case construct => exact absurd trivial h
  all_goals exact ⟨_, if_neg h⟩

theorem decode_of_reservedOpcode {w : Word} (h : mnemonicOfOpcode (opcField w) = none) :
    decode w = .error .reservedOpcode := by
  simp [decode, h]

theorem decode_of_reservedField {w : Word} {m : Mnemonic} (hm : mnemonicOfOpcode (opcField w) = some m)
    (hr : rsvField w ≠ 0) : decode w = .error .reservedField := by
  simp only [decode, hm, if_neg hr]

/-- Past the opcode and RSV the operand check decides (R76). -/
theorem decode_eq_decodeArg {w : Word} {m : Mnemonic} (hm : mnemonicOfOpcode (opcField w) = some m)
    (hr : rsvField w = 0) : decode w = decodeArg m (argField w) := by
  simp only [decode, hm, if_pos hr]

/-- An opcode names a mnemonic exactly in `0x01..0x0D` (R71, R82). -/
theorem isSome_mnemonicOfOpcode (opc : BitVec 8) :
    (mnemonicOfOpcode opc).isSome = true ↔ 1 ≤ opc.toNat ∧ opc.toNat ≤ 0x0D := by
  unfold mnemonicOfOpcode
  split <;> grind

/-- ARG[15:8] is bits 15 to 8 of the word (R70, R74). -/
theorem highByte_argField (w : Word) : (argField w).extractLsb' 8 8 = w.extractLsb' 8 8 := by
  ext j hj
  simp [argField]

/-- The checks of R76 after that of the opcode: RSV, then ARG by the form of the opcode. -/
theorem wordAccepted_iff_of_opcField {w : Word} {m : Mnemonic} (h : opcField w = opcodeOf m) :
    wordAccepted w = true ↔ rsvField w = 0 ∧ argFits m.form (argField w) := by
  cases m <;> simp [wordAccepted, h, opcodeOf, Mnemonic.form, argFits, highByte_argField]

/-- The checks of R76 as the decoder makes them. -/
theorem wordAccepted_iff (w : Word) :
    wordAccepted w = true ↔
      ∃ m, mnemonicOfOpcode (opcField w) = some m ∧ rsvField w = 0 ∧ argFits m.form (argField w) := by
  have opcode_in_range := isSome_mnemonicOfOpcode (opcField w)
  cases hm : mnemonicOfOpcode (opcField w) with
  | none =>
    rw [hm] at opcode_in_range
    simp [wordAccepted, ← opcode_in_range]
  | some m => simp [wordAccepted_iff_of_opcField (opcodeOf_of_mnemonicOfOpcode hm)]

/-- A word is the word of a command that has its opcode and its ARG, if its RSV is 0 (R70, R77). -/
theorem encode_eq_of_fields {w : Word} {i : Instr} (ho : opcField w = opcodeOf i.mnemonic) (hr : rsvField w = 0)
    (ha : argField w = argOf i) : encode i = w := by
  rw [← append_fields w, ho, hr, ha, encode]

/-- A word that passes every check of R76 decodes to the command whose word it is. -/
theorem exists_decode_eq_ok {w : Word} (h : wordAccepted w = true) : ∃ i, decode w = .ok i ∧ encode i = w := by
  obtain ⟨m, hm, hr, hf⟩ := (wordAccepted_iff w).1 h
  obtain ⟨i, hd, rfl, ha⟩ := exists_decodeArg_eq_ok hf
  exact ⟨i, by rw [decode_eq_decodeArg hm hr, hd], encode_eq_of_fields (opcodeOf_of_mnemonicOfOpcode hm) hr ha.symm⟩

/-- A word that fails a check of R76 decodes to no command. -/
theorem exists_decode_eq_error {w : Word} (h : ¬ wordAccepted w = true) : ∃ e, decode w = .error e := by
  cases hm : mnemonicOfOpcode (opcField w) with
  | none => exact ⟨_, decode_of_reservedOpcode hm⟩
  | some m =>
    by_cases hr : rsvField w = 0
    · rw [decode_eq_decodeArg hm hr]
      exact exists_decodeArg_eq_error fun hf => h ((wordAccepted_iff w).2 ⟨m, hm, hr, hf⟩)
    · exact ⟨_, decode_of_reservedField hm hr⟩

/-- A word that decodes runs as its command. -/
theorem runWord_of_decode_ok {w : Word} {i : Instr} (h : decode w = .ok i) (s : State) : runWord w s = exec i s := by
  simp only [runWord, h]

/-- A word that does not decode raises ILLEGAL(0) (R175). -/
theorem runWord_of_decode_error {w : Word} {e : DecodeReject} (h : decode w = .error e) (s : State) :
    runWord w s = .next (s.raise .illegal 0) := by
  simp only [runWord, h]

/-- Settles O1: the checks of R76 decide whether the word decodes. -/
theorem wordsDecodeOrRaiseIllegal : Obligations.WordsDecodeOrRaiseIllegal := by
  intro w s
  split
  case isTrue accepted =>
    obtain ⟨i, hd, he⟩ := exists_decode_eq_ok accepted
    exact ⟨i, hd, he, runWord_of_decode_ok hd s⟩
  case isFalse refused =>
    obtain ⟨e, hd⟩ := exists_decode_eq_error refused
    exact runWord_of_decode_error hd s

/-- The word of a command is the row of its opcode with the operand in the low half (R77). -/
theorem encode_eq_or {i : Instr} {row : Word} (m : Mnemonic) (hm : i.mnemonic = m)
    (hrow : (opcodeOf m).setWidth 32 <<< 24 = row) : encode i = row ||| (argOf i).setWidth 32 := by
  rw [← hrow, ← hm, encode]
  ext j hj
  simp only [BitVec.getElem_append, BitVec.getElem_or, BitVec.getElem_shiftLeft, BitVec.getElem_setWidth]
  grind

/-- The word of a byte command is the row of its opcode with the byte in the low 8 bits (R74, R77). -/
theorem encode_eq_or_byte {i : Instr} {row : Word} {b : Byte} (m : Mnemonic) (hm : i.mnemonic = m)
    (hrow : (opcodeOf m).setWidth 32 <<< 24 = row) (hb : argOf i = b.setWidth 16) :
    encode i = row ||| b.setWidth 32 := by
  rw [encode_eq_or m hm hrow, hb, BitVec.setWidth_setWidth (by omega)]

/-- Settles O4: each row's opcode stands at the top of the word and its operand at the bottom. -/
theorem commandWordsFollowTheOpcodeMap : Obligations.CommandWordsFollowTheOpcodeMap := by
  refine ⟨fun _ => ?construct, fun _ => ?absorb, ?_, fun _ => ?encrypt, fun _ => ?decrypt,
    ?_, ?_, ?_, ?_, ?_, ?_, ?_, ?_⟩
  case construct => exact encode_eq_or .construct rfl (by decide)
  case absorb => exact encode_eq_or_byte .absorb rfl (by decide) rfl
  case encrypt => exact encode_eq_or_byte .encrypt rfl (by decide) rfl
  case decrypt => exact encode_eq_or_byte .decrypt rfl (by decide) rfl
  all_goals decide

end Sys2Proof.Machine

/-!
SUPPORT. What a command adds to the responses, and the host's side of the state (R64, R81).
-/

namespace Sys2Proof.Machine

/-- `t` holds the responses of `s` and after them `n` more that the core may emit, and the host's own fields are those
of `s`. -/
def Answers (n : Nat) (s t : State) : Prop :=
  ∃ new, t.rspOut = s.rspOut ++ new ∧ new.length = n ∧ new.all legalResponse = true ∧
    t.cmdIn = s.cmdIn ∧ t.host = s.host ∧ t.received = s.received

/-- The two states have the same port and the same host (R186). -/
def SamePorts (s u : State) : Prop :=
  u.rspOut = s.rspOut ∧ u.cmdIn = s.cmdIn ∧ u.host = s.host ∧ u.received = s.received

theorem SamePorts.answers_respond {s u : State} (h : SamePorts s u) (st : Status) (d : BitVec 16) :
    Answers 1 s (u.respond st d) := by
  obtain ⟨hr, hc, hh, hv⟩ := h
  exact ⟨[responseWord st d], by simp [hr], rfl, by simp, hc, hh, hv⟩

theorem SamePorts.answers_respondBytes {s u : State} (h : SamePorts s u) (bs : List Byte) :
    Answers bs.length s (u.respondBytes bs) := by
  obtain ⟨hr, hc, hh, hv⟩ := h
  exact ⟨bs.map fun b => responseWord .ok (zext16 b), by simp [hr], by simp, by simp, hc, hh, hv⟩

theorem samePorts_refl (s : State) : SamePorts s s := ⟨rfl, rfl, rfl, rfl⟩

theorem samePorts_trigger (s : State) : SamePorts s s.trigger := by simp [SamePorts]

theorem samePorts_padBlock (s : State) : SamePorts s s.padBlock := by simp [SamePorts]

theorem samePorts_freshContext (s : State) (r : BitVec 8) : SamePorts s (s.freshContext r) := samePorts_refl s

theorem samePorts_clearContext (s : State) : SamePorts s s.clearContext := samePorts_refl s

theorem samePorts_saveContext (s : State) : SamePorts s s.saveContext := samePorts_refl s

theorem samePorts_restoreContext (s : State) : SamePorts s s.restoreContext := samePorts_refl s

theorem SamePorts.advanceCursor {s u : State} (h : SamePorts s u) : SamePorts s u.advanceCursor := h

theorem SamePorts.setByteAtCursor {s u : State} (h : SamePorts s u) (v : Byte) : SamePorts s (u.setByteAtCursor v) := h

/-- An error answers once (R173). -/
theorem answers_raise (s : State) (e : ErrorKind) (d : BitVec 16) : Answers 1 s (s.raise e d) :=
  SamePorts.answers_respond (u := { s with errlog := logError s.errlog e }) (samePorts_refl s) _ _

/-- A byte command's end answers once (R123, R125, R126). -/
theorem SamePorts.answers_finishByte {s u : State} (h : SamePorts s u) (v : Byte) (d : BitVec 16) :
    Answers 1 s (u.finishByte v d) :=
  (h.setByteAtCursor v).advanceCursor.answers_respond _ _

/-- Behind the state check a command answers as on a valid context, or once with NOT_CONFIGURED (R172). -/
theorem answers_needContext {n : Nat} {s : State} {run : State → State} (h : Answers n s (run s)) :
    Answers (if s.valid then n else 1) s (s.needContext run) := by
  rcases needContext_cases s run with ⟨hv, e⟩ | ⟨hv, e⟩ <;> rw [e, hv]
  · exact h
  · exact answers_raise s _ _

/-- A command that answers once on a valid context answers once on every context (R172). -/
theorem answers_one_needContext {s : State} {run : State → State} (h : Answers 1 s (run s)) :
    Answers 1 s (s.needContext run) := by
  simpa using answers_needContext h

@[simp] theorem length_firstBytes (m : Memory) (n : Nat) : (m.firstBytes n).length = n := by simp [Memory.firstBytes]

/-- Every command gives its number of responses (R81). -/
theorem answers_effect (i : Instr) (s : State) : Answers (responseCount i s) s (effect i s) := by
  cases i
  case construct rate =>
    simp only [effect, responseCount]
    split
    · exact (samePorts_freshContext s _).answers_respond _ _
    · exact answers_raise s _ _
  case absorb | encrypt | decrypt => exact answers_one_needContext ((samePorts_trigger s).answers_finishByte _ _)
  case squeeze => exact answers_one_needContext ((samePorts_trigger s).advanceCursor.answers_respond _ _)
  case pad => exact answers_one_needContext ((samePorts_padBlock s).answers_respond _ _)
  case sum =>
    refine answers_needContext ?_
    simpa using (samePorts_padBlock s).answers_respondBytes (s.padBlock.blk.firstBytes s.padBlock.rate.toNat)
  case reset => exact (samePorts_clearContext s).answers_respond _ _
  case save => exact answers_one_needContext ((samePorts_saveContext s).answers_respond _ _)
  case restore =>
    simp only [effect, responseCount]
    split
    · exact (samePorts_restoreContext s).answers_respond _ _
    · exact answers_raise s _ _
  case size | blocksize => exact answers_one_needContext ((samePorts_refl s).answers_respond _ _)
  case status => exact (samePorts_refl s).answers_respond _ _

/-- RATE responses for a SUM on a valid context, one otherwise (R81). -/
theorem responseCount_eq (i : Instr) (s : State) :
    responseCount i s = if i = .sum ∧ s.valid = true then s.rate.toNat else 1 := by
  cases i <;> simp [responseCount]

/-- Settles O29: the command's effect gives its number of responses. -/
theorem everyCommandGivesItsNumberOfResponses : Obligations.EveryCommandGivesItsNumberOfResponses := by
  intro i s t h
  rw [exec_eq] at h
  cases h
  rw [← responseCount_eq]
  exact answers_effect i s

end Sys2Proof.Machine

/-!
SUPPORT. The ARX permutation: rotl below and above its complement count, the chain of each pass, a byte of Perm, and
what Perm reads of the block (R95, R99, R105 to R109).
-/

namespace Sys2Proof.Machine

theorem rotl_eq (v : W64) (s : Nat) : rotl v s = v <<< s ||| shr v (complementCount s) := rfl

theorem shr_of_lt (v : W64) {n : Nat} (h : n < 64) : shr v n = v >>> n := if_neg (by omega)

theorem shr_of_le (v : W64) {n : Nat} (h : 64 ≤ n) : shr v n = 0 := if_pos h

/-- The count is 32 - s up to 32, and above it the subtraction wraps to 2^64 - (s - 32) (R99). -/
theorem complementCount_eq {s : Nat} (h : s < 64) :
    complementCount s = if s ≤ 32 then 32 - s else 2 ^ 64 - (s - 32) := by
  have thirty_two : (32 : W64).toNat = 32 := rfl
  rw [complementCount, BitVec.toNat_sub, BitVec.toNat_ofNat, thirty_two]
  split <;> omega

/-- At an amount of at most 32, rotl joins the left shift and the right shift by the complement to 32 (R99). -/
theorem rotl_of_le (v : W64) {s : Nat} (h : s ≤ 32) : rotl v s = v <<< s ||| v >>> (32 - s) := by
  rw [rotl_eq, complementCount_eq (by omega), if_pos h, shr_of_lt v (by omega)]

/-- At an amount above 32, rotl is the left shift alone: the right part is 0 (R99). -/
theorem rotl_of_gt (v : W64) {s : Nat} (h : 32 < s) (hs : s < 64) : rotl v s = v <<< s := by
  rw [rotl_eq, complementCount_eq hs, if_neg (by omega), shr_of_le v (by omega)]
  exact BitVec.or_zero

theorem shr_zero (n : Nat) : shr 0 n = 0 := by
  unfold shr
  split
  · rfl
  · exact BitVec.zero_ushiftRight

theorem rotl_zero (s : Nat) : rotl 0 s = 0 := by
  rw [rotl_eq, shr_zero]
  simp

/-- At an amount of at most 32 the two parts of rotl cover every bit between them. -/
theorem rotl_allOnes_of_le {s : Nat} (h : s ≤ 32) : rotl (BitVec.allOnes 64) s = BitVec.allOnes 64 := by
  rw [rotl_of_le _ h]
  ext j hj
  have covered : s ≤ j ∨ 32 - s + j < 64 := by omega
  simpa [-BitVec.reduceAllOnes, hj] using covered

/-- Settles O7: each amount lies below 32, where the two shifts meet, or above it, where the right part is 0. -/
theorem rotlHasItsEightClosedForms : Obligations.RotlHasItsEightClosedForms := by
  refine ⟨fun v => ?forms, fun s _ => rotl_zero s, fun s hs => ?ones, by decide, by decide⟩
  case forms =>
    exact ⟨rotl_of_le v (by decide), rotl_of_le v (by decide), rotl_of_le v (by decide),
      rotl_of_gt v (by decide) (by decide), rotl_of_le v (by decide), rotl_of_le v (by decide),
      rotl_of_gt v (by decide) (by decide), rotl_of_gt v (by decide) (by decide)⟩
  case ones =>
    have at_most_32 : ∀ s ∈ [7, 11, 19, 23, 31], s ≤ 32 := by decide
    exact rotl_allOnes_of_le (at_most_32 s hs)

/-- Two neighbouring sub-block indices are the two ends of one of the seven links of a chain. -/
theorem exists_link {j k : Fin 8} (h : k.val = j.val + 1) : ∃ l : Fin 7, j = l.castSucc ∧ k = l.succ :=
  ⟨⟨j.val, by omega⟩, rfl, Fin.ext h⟩

/-- A link of the upward chain: the sub-block made last is X, the next input is Y (R105). -/
theorem subBlock_forward_succ (t : ArxTable) (r : Fin 6) (i : SubBlocks) (l : Fin 7) :
    subBlock (forward t r i) l.succ =
      mix (t.mc r l.succ) (subBlock (forward t r i) l.castSucc) (subBlock i l.succ) := by
  fin_cases l <;> rfl

/-- A link of the downward chain: the next input is X, the sub-block made last is Y (R106). -/
theorem subBlock_backward_castSucc (t : ArxTable) (r : Fin 6) (i : SubBlocks) (l : Fin 7) :
    subBlock (backward t r i) l.castSucc =
      mix (t.mc r l.castSucc) (subBlock i l.castSucc) (subBlock (backward t r i) l.succ) := by
  fin_cases l <;> rfl

/-- Settles O9: sub-block 0 starts the chain, and every pair of neighbours is a link of it. -/
theorem forwardPassChainsUpward : Obligations.ForwardPassChainsUpward := by
  refine fun t r i => ⟨rfl, fun j k h => ?_⟩
  obtain ⟨l, rfl, rfl⟩ := exists_link h
  exact subBlock_forward_succ t r i l

/-- Settles O10: sub-block 7 starts the chain, and every pair of neighbours is a link of it. -/
theorem backwardPassChainsDownward : Obligations.BackwardPassChainsDownward := by
  refine fun t r i => ⟨rfl, fun j k h => ?_⟩
  obtain ⟨l, rfl, rfl⟩ := exists_link h
  exact subBlock_backward_castSucc t r i l

/-- Byte `8(4i+k)+b` of Perm is byte `b` of word `k` of sub-block `i` after the six rounds (R108). -/
theorem read_perm (t : ArxTable) (m : Memory) (i : Fin 8) {k b : Nat} (hk : k < 4) (hb : b < 8) :
    (perm t m).read (8 * (4 * i.val + k) + b) =
      ((SubBlock.words (subBlock (rounds t m.toSubBlocks) i)).getD k 0).extractLsb' (56 - 8 * b) 8 := by
  rw [perm, read_ofSubBlocks _ (by omega) hb, getD_words _ i hk]

/-- Settles O13: Perm writes back the sub-blocks of the six rounds, and a byte of a block written back is known. -/
theorem permIsSixAlternatingRoundsOnTheWords : Obligations.PermIsSixAlternatingRoundsOnTheWords :=
  fun t m i _ _ hk hb => read_perm t m i hk hb

section SameBytes

variable {m n : Memory} (h : ∀ a, a < 256 → m.read a = n.read a)
include h

/-- A word of the block is read from eight of the 256 bytes (R52). -/
theorem wordAt_congr {w : Nat} (hw : w < 32) : m.wordAt w = n.wordAt w := by
  simp (disch := omega) only [Memory.wordAt, h]

theorem subBlockAt_congr {i : Nat} (hi : i < 8) : m.subBlockAt i = n.subBlockAt i := by
  simp (disch := omega) only [Memory.subBlockAt, wordAt_congr h]

/-- The word view is a function of the 256 bytes (R53). -/
theorem toSubBlocks_congr : m.toSubBlocks = n.toSubBlocks := by
  simp (disch := omega) only [Memory.toSubBlocks, subBlockAt_congr h]

theorem perm_congr (t : ArxTable) : perm t m = perm t n := by
  rw [perm, perm, toSubBlocks_congr h]

end SameBytes

/-- Settles O14: Perm reads the block through its word view alone, and writes a canonical block back. -/
theorem equalBlocksPermuteEqually : Obligations.EqualBlocksPermuteEqually :=
  fun t m _ h => ⟨perm_congr h t, wf_perm t m⟩

end Sys2Proof.Machine

/-!
SUPPORT. What the sponge commands leave and answer: an invalid context refused, a byte command on the triggered block, the
pad, and the bytes of a digest (41_sponge_commands.md).
-/

namespace Sys2Proof.Machine

/-- NOT_CONFIGURED(0) sets ERRLOG bit 1 and answers `0x02000000` (R172, R173). -/
theorem raise_notConfigured_eq (s : State) :
    s.raise .notConfigured 0 = { s with errlog := s.errlog ||| 0b0010, rspOut := s.rspOut ++ [0x02000000] } := rfl

/-- The nine context commands stand behind the state check (R172). -/
theorem effect_of_invalid {i : Instr} (hi : needsContext i = true) {s : State} (hv : s.valid = false) :
    effect i s = s.raise .notConfigured 0 := by
  cases i
  case construct | reset | restore | status => cases hi
  all_goals rw [effect, needContext_invalid hv]

/-- A context command on an invalid context answers NOT_CONFIGURED(0) and changes nothing else (R172). -/
theorem refusesUnconfigured_of_invalid {i : Instr} (hi : needsContext i = true) {s : State} (hv : s.valid = false) :
    refusesUnconfigured i s := by
  rw [refusesUnconfigured, exec_eq, effect_of_invalid hi hv, raise_notConfigured_eq]

/-- A response word is its status code above its DATA (R78). -/
theorem responseWord_eq_or (st : Status) (d : BitVec 16) :
    responseWord st d = st.code.setWidth 32 <<< 24 ||| d.setWidth 32 := by
  unfold responseWord
  ext j hj
  simp only [BitVec.getElem_append, BitVec.getElem_or, BitVec.getElem_shiftLeft, BitVec.getElem_setWidth]
  grind

theorem rateAccepted_iff {rate : BitVec 16} : rateAccepted rate = true ↔ 1 ≤ rate.toNat ∧ rate.toNat ≤ 255 :=
  decide_eq_true_iff

/-- RATE takes the low 8 bits of the rate (R122). -/
theorem rateRegister_eq (rate : BitVec 16) : rateRegister rate = BitVec.ofNat 8 rate.toNat := by
  simp [rateRegister, BitVec.extractLsb']

/-- A context behind the state check keeps CURSOR and BLK if the command does: an error touches neither (R173). -/
theorem needContext_keeps_cursor_blk {s : State} {run : State → State}
    (h : (run s).cursor = s.cursor ∧ (run s).blk = s.blk) :
    (s.needContext run).cursor = s.cursor ∧ (s.needContext run).blk = s.blk := by
  rcases needContext_cases s run with ⟨_, e⟩ | ⟨_, e⟩ <;> rw [e]
  · exact h
  · exact ⟨rfl, rfl⟩

/-- With RATE above 0, CURSOR differs from RATE after the trigger check, so a second check does nothing (R120). -/
theorem trigger_trigger {s : State} (hr : s.rate ≠ 0) : s.trigger.trigger = s.trigger := by
  rcases trigger_cases s with ⟨_, e⟩ | ⟨_, e⟩
  · rw [e]; exact if_neg hr.symm
  · rw [e, e]

/-- On a valid context a byte command reads the state after the trigger check alone (R120). -/
theorem effect_trigger {i : Instr} (hi : isByteCommand i = true) {s : State} (hv : s.valid = true) (hr : s.rate ≠ 0) :
    effect i s.trigger = effect i s := by
  have hv' : s.trigger.valid = true := by rw [trigger_valid, hv]
  cases i
  case absorb | squeeze | encrypt | decrypt =>
    simp only [effect, needContext_valid hv, needContext_valid hv', trigger_trigger hr]
  all_goals cases hi

/-- Settles O15: a byte command reads the triggered state, on which a second check does nothing, and SAVE, SIZE, BLOCKSIZE
and STATUS write neither CURSOR nor BLK. -/
theorem triggerCheckPrecedesEveryByte : Obligations.TriggerCheckPrecedesEveryByte := by
  refine fun s => ⟨rfl, fun i hi hv hr => ?byte, fun i t hi hpad hsum hcons hreset hrestore ht => ?other⟩
  case byte => rw [exec_eq, exec_eq, effect_trigger hi hv hr]
  case other =>
    rw [exec_eq] at ht
    cases ht
    cases i
    case save | size | blocksize =>
      rw [effect]
      exact needContext_keeps_cursor_blk ⟨rfl, rfl⟩
    case status => exact ⟨rfl, rfl⟩
    case construct rate => exact absurd rfl (hcons rate)
    case pad => exact absurd rfl hpad
    case sum => exact absurd rfl hsum
    case reset => exact absurd rfl hreset
    case restore => exact absurd rfl hrestore
    all_goals cases hi

/-- Settles O16: the two branches of CONSTRUCT, with RATE and the refused rate's response word written out. -/
theorem constructMakesAZeroContextOrRefusesTheRate : Obligations.ConstructMakesAZeroContextOrRefusesTheRate := by
  intro rate s
  rw [exec_eq, effect]
  by_cases accepted : 1 ≤ rate.toNat ∧ rate.toNat ≤ 255
  · rw [if_pos (rateAccepted_iff.2 accepted), if_pos accepted, rateRegister_eq]
    rfl
  · have refusal : responseWord (.error .configError) rate = 0x01000000 ||| rate.setWidth 32 := responseWord_eq_or _ _
    rw [if_neg (mt rateAccepted_iff.1 accepted), if_neg accepted, ← refusal]
    rfl

/-- How a byte command ends on the triggered state: BLK, CURSOR and one response, every other field that of `s` (R123,
R125, R126). -/
theorem finishByte_trigger_eq (s : State) (v : Byte) (d : BitVec 16) :
    s.trigger.finishByte v d =
      { s with blk := (s.trigger.finishByte v d).blk, cursor := s.trigger.cursor + 1
               rspOut := s.rspOut ++ [responseWord .ok d] } := by
  rw [trigger_frame]; rfl

/-- The byte at the cursor after a byte command, and every other byte that of the triggered block (R58, R120). -/
theorem read_finishByte_trigger {s : State} (hw : s.blk.wf = true) (v : Byte) (d : BitVec 16) (a : Nat) :
    (s.trigger.finishByte v d).blk.read a = if a = s.trigger.cursor.toNat then v else s.trigger.blk.read a :=
  read_finishByte (wf_trigger hw) v d a

/-- Where the byte written is the one that stood there XORed with `b`, every byte is told by its own address (R123,
R125). -/
theorem read_finishByte_trigger_xor {s : State} (hw : s.blk.wf = true) (b : Byte) (d : BitVec 16) (a : Nat) :
    (s.trigger.finishByte (s.trigger.byteAtCursor ^^^ b) d).blk.read a =
      if a = s.trigger.cursor.toNat then s.trigger.blk.read a ^^^ b else s.trigger.blk.read a := by
  rw [read_finishByte_trigger hw]
  exact if_ctx_congr Iff.rfl (fun at_cursor => by rw [at_cursor, State.byteAtCursor]) fun _ => rfl

/-- Settles O17: ABSORB ends as a byte command that leaves the XOR at the cursor. -/
theorem absorbXorsIntoTheByteAtTheCursor : Obligations.AbsorbXorsIntoTheByteAtTheCursor := by
  refine fun b s => ⟨refusesUnconfigured_of_invalid rfl, fun hv hw => ⟨_, exec_eq (.absorb b) s, ?_⟩⟩
  rw [effect, needContext_valid hv]
  exact ⟨finishByte_trigger_eq s _ 0, read_finishByte_trigger_xor hw b 0⟩

/-- Settles O18: the answer is the byte at the triggered cursor, and only CURSOR moves after the trigger check. -/
theorem squeezeAnswersTheByteAtTheCursor : Obligations.SqueezeAnswersTheByteAtTheCursor := by
  refine fun s => ⟨refusesUnconfigured_of_invalid rfl, fun hv => ?_⟩
  rw [exec_eq, effect, needContext_valid hv, ← responseWord_ok_zext16, trigger_frame]
  rfl

/-- Settles O19: ENCRYPT ends as a byte command that leaves the XOR at the cursor, and answers that byte. -/
theorem encryptAnswersThePostXorByte : Obligations.EncryptAnswersThePostXorByte := by
  refine fun p s => ⟨refusesUnconfigured_of_invalid rfl, fun hv hw => ⟨_, exec_eq (.encrypt p) s, ?_⟩⟩
  rw [effect, needContext_valid hv]
  refine ⟨?next, read_finishByte_trigger_xor hw p _⟩
  case next =>
    rw [read_finishByte_trigger hw, if_pos rfl, ← responseWord_ok_zext16]
    exact finishByte_trigger_eq s _ _

/-- Settles O20: DECRYPT ends as a byte command that leaves the ciphertext byte at the cursor. -/
theorem decryptReplacesTheByteAtTheCursor : Obligations.DecryptReplacesTheByteAtTheCursor := by
  refine fun c s => ⟨refusesUnconfigured_of_invalid rfl, fun hv hw => ⟨_, exec_eq (.decrypt c) s, ?_⟩⟩
  rw [effect, needContext_valid hv, ← responseWord_ok_zext16]
  exact ⟨finishByte_trigger_eq s _ _, read_finishByte_trigger hw c _⟩

/-- The PAD leaves CURSOR at 0 (R128). -/
@[simp] theorem padBlock_cursor (s : State) : s.padBlock.cursor = 0 := by
  rcases padBlock_cases s with ⟨_, e⟩ | ⟨h, e⟩ <;> rw [e]
  · rfl
  · exact h

/-- The PAD permutes BLK above CURSOR 0 (R128). -/
theorem padBlock_blk (s : State) :
    s.padBlock.blk = if s.cursor.toNat > 0 then perm Config.arx s.blk else s.blk := by
  rcases padBlock_cases s with ⟨h, e⟩ | ⟨h, e⟩ <;> rw [e]
  · rw [if_pos (BitVec.toNat_pos_of_ne_zero h)]; rfl
  · simp [h]

/-- The state after the PAD, field by field (R128). -/
theorem padBlock_eq (s : State) :
    s.padBlock =
      { s with blk := if s.cursor.toNat > 0 then perm Config.arx s.blk else s.blk, cursor := 0 } :=
  (padBlock_frame s).trans (by rw [padBlock_blk, padBlock_cursor])

/-- Settles O21: PAD is the pad of the block and one response. -/
theorem padPermutesUnlessTheCursorIsZero : Obligations.PadPermutesUnlessTheCursorIsZero := by
  refine fun s => ⟨refusesUnconfigured_of_invalid rfl, fun hv => ?_⟩
  rw [exec_eq, effect, needContext_valid hv, padBlock_eq]
  rfl

/-- Byte `i` of the first `n` bytes is byte `i` of the array. -/
theorem getElem?_firstBytes (m : Memory) {n i : Nat} (h : i < n) : (m.firstBytes n)[i]? = some (m.read i) := by
  simp [Memory.firstBytes, h]

/-- Settles O22: SUM is the pad of the block and one response for each byte of the rate part. -/
theorem sumAnswersTheRatePartAfterThePad : Obligations.SumAnswersTheRatePartAfterThePad := by
  refine fun s => ⟨refusesUnconfigured_of_invalid rfl, fun hv => ⟨_, exec_eq .sum s, ?_⟩⟩
  rw [effect, needContext_valid hv]
  refine ⟨?frame, by simp, by simp, fun i hi => ?byte⟩
  case frame =>
    rw [padBlock_eq]
    rfl
  case byte => simp [List.getElem?_append_right, getElem?_firstBytes _ hi, responseWord_ok_zext16]

/-- Settles O23: the cleared context has an array without cells, which reads 0 everywhere. -/
theorem resetClearsTheLiveContextAlone : Obligations.ResetClearsTheLiveContextAlone :=
  fun s => ⟨_, exec_eq .reset s, rfl, read_nil⟩

end Sys2Proof.Machine

/-!
SUPPORT. What the checkpoint and query commands leave and answer (42_context_commands.md): the checkpoint missing, and the
capacity as a number.
-/

namespace Sys2Proof.Machine

/-- NO_CHECKPOINT(0) sets ERRLOG bit 2 and answers `0x03000000` (R173, R174). -/
theorem raise_noCheckpoint_eq (s : State) :
    s.raise .noCheckpoint 0 = { s with errlog := s.errlog ||| 0b0100, rspOut := s.rspOut ++ [0x03000000] } := rfl

/-- The capacity does not wrap: its DATA is the number 256 - RATE (R80, R153). -/
theorem toNat_capacityData (rate : BitVec 8) : (capacityData rate).toNat = 256 - rate.toNat := by
  have no_borrow : rate.toNat < 256 := rate.isLt
  simp only [capacityData, zext16, BitVec.toNat_sub, BitVec.toNat_setWidth, BitVec.ofNat_eq_ofNat, BitVec.toNat_ofNat]
  omega

/-- The answer of BLOCKSIZE as a number (R78, R153). -/
theorem responseWord_ok_capacityData (rate : BitVec 8) :
    responseWord .ok (capacityData rate) = BitVec.ofNat 32 (256 - rate.toNat) := by
  rw [responseWord_ok, ← toNat_capacityData, BitVec.ofNat_toNat]

/-- Under (I1) a valid context's capacity is neither 0 nor the whole block (R42, R153). -/
theorem capacity_bounds {s : State} (hv : s.valid = true) (live : s.LiveInv) :
    1 ≤ 256 - s.rate.toNat ∧ 256 - s.rate.toNat ≤ 255 := by
  have rate_le : s.rate.toNat < 256 := s.rate.isLt
  obtain ⟨valid_bounds, _⟩ := live
  obtain ⟨rate_pos, _⟩ := valid_bounds hv
  omega

/-- Settles O24: SAVE passes the state check, copies the context to the slot and answers once. -/
theorem saveCopiesTheContextToTheSlot : Obligations.SaveCopiesTheContextToTheSlot := by
  refine fun s => ⟨refusesUnconfigured_of_invalid rfl, fun hv => ?_⟩
  rw [exec_eq, effect, needContext_valid hv]
  rfl

/-- Settles O25: the two branches of RESTORE, with the missing checkpoint's response word written out. -/
theorem restoreCopiesTheSlotToTheContext : Obligations.RestoreCopiesTheSlotToTheContext := by
  intro s
  rw [exec_eq, effect]
  by_cases saved : s.ckValid = true
  · rw [if_pos saved, if_pos saved]
    rfl
  · rw [if_neg saved, if_neg saved, raise_noCheckpoint_eq]

/-- Settles O26: SIZE passes the state check and answers RATE as a number. -/
theorem sizeAnswersTheRate : Obligations.SizeAnswersTheRate := by
  refine fun s => ⟨refusesUnconfigured_of_invalid rfl, fun hv => ?_⟩
  rw [exec_eq, effect, needContext_valid hv, BitVec.ofNat_toNat, ← responseWord_ok_zext16]
  rfl

/-- Settles O27: BLOCKSIZE passes the state check and answers the capacity as a number. -/
theorem blocksizeAnswersTheCapacity : Obligations.BlocksizeAnswersTheCapacity := by
  refine fun s => ⟨refusesUnconfigured_of_invalid rfl, fun hv => ⟨?_, capacity_bounds hv⟩⟩
  rw [exec_eq, effect, needContext_valid hv, ← responseWord_ok_capacityData]
  rfl

end Sys2Proof.Machine

/-!
SUPPORT. The error a word raises (R176, R178): at most one, with its DATA; a word that raises none answers OK alone.
-/

namespace Sys2Proof.Machine

/-- The error a command raises at a state, by the table of R176; none where it succeeds. -/
def commandError (i : Instr) (s : State) : Option ErrorKind :=
  match i with
  | .construct rate => if rateAccepted rate then none else some .configError
  | .absorb _ | .squeeze | .encrypt _ | .decrypt _ | .pad | .sum | .save | .size | .blocksize =>
    if s.valid then none else some .notConfigured
  | .restore => if s.ckValid then none else some .noCheckpoint
  | .reset | .status => none

/-- The error a word raises at a state: the decoder's check comes first (R178). -/
def wordError (w : Word) (s : State) : Option ErrorKind :=
  match decode w with
  | .ok i => commandError i s
  | .error _ => some .illegal

/-- The DATA column of R176: the offending rate, cmd[15:0], for CONFIG_ERROR, else 0. -/
def ErrorKind.data (w : Word) : ErrorKind → BitVec 16
  | .configError => argField w
  | .notConfigured | .noCheckpoint | .illegal => 0

/-- The responses of `t` are those of `s` and after them OK responses alone. -/
def AnswersOk (s t : State) : Prop :=
  ∃ new, t.rspOut = s.rspOut ++ new ∧ ∀ r ∈ new, responseStatus r = 0

theorem ErrorKind.code_ne_zero (e : ErrorKind) : e.code ≠ 0 := by
  cases e <;> decide

theorem ErrorKind.code_inj {e e' : ErrorKind} : e.code = e'.code ↔ e = e' := by
  cases e <;> cases e' <;> decide

/-! ## The cause of each error -/

theorem wordError_of_decode_ok {w : Word} {i : Instr} (h : decode w = .ok i) (s : State) :
    wordError w s = commandError i s := by
  simp only [wordError, h]

theorem wordError_of_decode_error {w : Word} {r : DecodeReject} (h : decode w = .error r) (s : State) :
    wordError w s = some .illegal := by
  simp only [wordError, h]

theorem commandError_ne_illegal (i : Instr) (s : State) : commandError i s ≠ some .illegal := by
  cases i <;> simp [commandError]

theorem commandError_eq_notConfigured_iff {i : Instr} {s : State} :
    commandError i s = some .notConfigured ↔ s.valid = false ∧ needsContext i = true := by
  cases i <;> simp [commandError, needsContext]

theorem commandError_eq_noCheckpoint_iff {i : Instr} {s : State} :
    commandError i s = some .noCheckpoint ↔ i = .restore ∧ s.ckValid = false := by
  cases i <;> simp [commandError]

theorem rateAccepted_eq_false_iff {rate : BitVec 16} :
    rateAccepted rate = false ↔ rate.toNat = 0 ∨ 256 ≤ rate.toNat := by
  rw [← Bool.not_eq_true, rateAccepted_iff]
  omega

theorem commandError_eq_configError_iff {i : Instr} {s : State} :
    commandError i s = some .configError ↔
      ∃ rate, i = .construct rate ∧ (rate.toNat = 0 ∨ 256 ≤ rate.toNat) := by
  cases i <;> simp [commandError, rateAccepted_eq_false_iff]

/-- ILLEGAL is the error of a word R76 refuses, whatever the state (R175). -/
theorem wordError_eq_illegal_iff {w : Word} {s : State} :
    wordError w s = some .illegal ↔ wordAccepted w = false := by
  by_cases accepted : wordAccepted w = true
  · obtain ⟨i, hd, _⟩ := exists_decode_eq_ok accepted
    simp [wordError_of_decode_ok hd, commandError_ne_illegal, accepted]
  · obtain ⟨r, hd⟩ := exists_decode_eq_error accepted
    simp [wordError_of_decode_error hd, accepted]

/-- Every other error is one of a command (R178). -/
theorem wordError_eq_some_iff {w : Word} {s : State} {e : ErrorKind} (he : e ≠ .illegal) :
    wordError w s = some e ↔ ∃ i, decode w = .ok i ∧ commandError i s = some e := by
  cases hd : decode w with
  | ok i => simp [wordError_of_decode_ok hd]
  | error r => simp [wordError_of_decode_error hd, he.symm]

theorem wordError_eq_notConfigured_iff {w : Word} {s : State} :
    wordError w s = some .notConfigured ↔ s.valid = false ∧ ∃ i, decode w = .ok i ∧ needsContext i = true := by
  simp [wordError_eq_some_iff, commandError_eq_notConfigured_iff, and_left_comm]

theorem wordError_eq_noCheckpoint_iff {w : Word} {s : State} :
    wordError w s = some .noCheckpoint ↔ decode w = .ok .restore ∧ s.ckValid = false := by
  simp [wordError_eq_some_iff, commandError_eq_noCheckpoint_iff]

theorem wordError_eq_configError_iff {w : Word} {s : State} :
    wordError w s = some .configError ↔
      ∃ rate, decode w = .ok (.construct rate) ∧ (rate.toNat = 0 ∨ 256 ≤ rate.toNat) := by
  simp [wordError_eq_some_iff, commandError_eq_configError_iff]

/-! ## What a word leaves with an error and without one -/

theorem encode_eq_of_decode_eq_ok {w : Word} {i : Instr} (h : decode w = .ok i) : encode i = w := by
  by_cases accepted : wordAccepted w = true
  · obtain ⟨j, hd, he⟩ := exists_decode_eq_ok accepted
    rw [h] at hd
    cases hd
    exact he
  · obtain ⟨r, hd⟩ := exists_decode_eq_error accepted
    rw [h] at hd
    cases hd

/-- A command with an error raises it, with the DATA its own word gives, and does nothing else (R173). -/
theorem effect_of_commandError {i : Instr} {s : State} {e : ErrorKind} (h : commandError i s = some e) :
    effect i s = s.raise e (e.data (encode i)) := by
  cases e with
  | configError =>
    obtain ⟨rate, rfl, bad_rate⟩ := commandError_eq_configError_iff.1 h
    simp [effect, rateAccepted_eq_false_iff.2 bad_rate, ErrorKind.data, argOf]
  | notConfigured =>
    obtain ⟨invalid, needs_context⟩ := commandError_eq_notConfigured_iff.1 h
    exact effect_of_invalid needs_context invalid
  | noCheckpoint =>
    obtain ⟨rfl, no_checkpoint⟩ := commandError_eq_noCheckpoint_iff.1 h
    simp [effect, no_checkpoint, ErrorKind.data]
  | illegal => exact absurd h (commandError_ne_illegal i s)

theorem SamePorts.answersOk_respond {s u : State} (h : SamePorts s u) (d : BitVec 16) :
    AnswersOk s (u.respond .ok d) := by
  obtain ⟨same_responses, _⟩ := h
  exact ⟨[responseWord .ok d], by simp [same_responses], by simp [Status.code]⟩

theorem SamePorts.answersOk_respondBytes {s u : State} (h : SamePorts s u) (bs : List Byte) :
    AnswersOk s (u.respondBytes bs) := by
  obtain ⟨same_responses, _⟩ := h
  exact ⟨bs.map fun b => responseWord .ok (zext16 b), by simp [same_responses], by simp [Status.code]⟩

theorem SamePorts.answersOk_finishByte {s u : State} (h : SamePorts s u) (v : Byte) (d : BitVec 16) :
    AnswersOk s (u.finishByte v d) :=
  (h.setByteAtCursor v).advanceCursor.answersOk_respond d

/-- A context command without an error stands on a valid context (R172). -/
theorem valid_of_commandError_none {i : Instr} {s : State} (h : commandError i s = none) (hi : needsContext i = true) :
    s.valid = true := by
  by_contra invalid
  simpa [h] using commandError_eq_notConfigured_iff.2 ⟨Bool.eq_false_iff.2 invalid, hi⟩

theorem answersOk_needContext {s : State} {run : State → State} (hv : s.valid = true) (h : AnswersOk s (run s)) :
    AnswersOk s (s.needContext run) := by
  rwa [needContext_valid hv]

/-- A command without an error gives OK responses alone. -/
theorem effect_of_commandError_none {i : Instr} {s : State} (h : commandError i s = none) :
    AnswersOk s (effect i s) := by
  have valid := valid_of_commandError_none h
  cases i
  case construct rate =>
    have accepted : rateAccepted rate = true := by simpa [commandError] using h
    rw [effect, if_pos accepted]
    exact (samePorts_freshContext s _).answersOk_respond 0
  case absorb | encrypt | decrypt =>
    exact answersOk_needContext (valid rfl) ((samePorts_trigger s).answersOk_finishByte _ _)
  case squeeze => exact answersOk_needContext (valid rfl) ((samePorts_trigger s).advanceCursor.answersOk_respond _)
  case pad => exact answersOk_needContext (valid rfl) ((samePorts_padBlock s).answersOk_respond 0)
  case sum => exact answersOk_needContext (valid rfl) ((samePorts_padBlock s).answersOk_respondBytes _)
  case reset => exact (samePorts_clearContext s).answersOk_respond 0
  case save => exact answersOk_needContext (valid rfl) ((samePorts_saveContext s).answersOk_respond 0)
  case restore =>
    have saved : s.ckValid = true := by simpa [commandError] using h
    rw [effect, if_pos saved]
    exact (samePorts_restoreContext s).answersOk_respond 0
  case size | blocksize => exact answersOk_needContext (valid rfl) ((samePorts_refl s).answersOk_respond _)
  case status => exact (samePorts_refl s).answersOk_respond _

/-- A word with an error raises it, with its DATA, and does nothing else (R173). -/
theorem wordEffect_of_wordError {w : Word} {s : State} {e : ErrorKind} (h : wordError w s = some e) :
    wordEffect w s = s.raise e (e.data w) := by
  unfold wordEffect
  cases hd : decode w with
  | ok i =>
    rw [wordError_of_decode_ok hd] at h
    exact encode_eq_of_decode_eq_ok hd ▸ effect_of_commandError h
  | error r =>
    rw [wordError_of_decode_error hd] at h
    cases h
    rfl

/-- A word without an error gives OK responses alone. -/
theorem wordEffect_of_wordError_none {w : Word} {s : State} (h : wordError w s = none) :
    AnswersOk s (wordEffect w s) := by
  unfold wordEffect
  cases hd : decode w with
  | ok i => exact effect_of_commandError_none (wordError_of_decode_ok hd s ▸ h)
  | error r => simp [wordError_of_decode_error hd] at h

section OneResponse

variable {w : Word} {s : State} {r : Word} (one : (wordEffect w s).rspOut = s.rspOut ++ [r])
include one

/-- The one response of a word with an error carries that error and its DATA (R173). -/
theorem response_of_wordError {e : ErrorKind} (h : wordError w s = some e) :
    r = responseWord (.error e) (e.data w) := by
  rw [wordEffect_of_wordError h, raise_rspOut] at one
  simpa using one.symm

theorem responseStatus_of_wordError_none (h : wordError w s = none) : responseStatus r = 0 := by
  obtain ⟨new, answers, all_ok⟩ := wordEffect_of_wordError_none h
  have new_eq : new = [r] := List.append_cancel_left (answers.symm.trans one)
  exact all_ok r (by simp [new_eq])

/-- The status of a word's one response tells the error it raised (R79, R170). -/
theorem responseStatus_eq_code_iff (e : ErrorKind) : responseStatus r = e.code ↔ wordError w s = some e := by
  cases raised : wordError w s with
  | none => simpa [responseStatus_of_wordError_none one raised] using e.code_ne_zero.symm
  | some e' => simp [response_of_wordError one raised, Status.code, ErrorKind.code_inj]

theorem exists_wordError_of_responseStatus_ne_zero (h : responseStatus r ≠ 0) : ∃ e, wordError w s = some e :=
  Option.ne_none_iff_exists'.1 fun none_raised => h (responseStatus_of_wordError_none one none_raised)

theorem responseData_of_wordError {e : ErrorKind} (h : wordError w s = some e) : responseData r = e.data w := by
  rw [response_of_wordError one h, responseData_responseWord]

end OneResponse

/-- Settles O30: a response that is not OK comes of an error raised, and raising is the whole effect of the word. -/
theorem errorsChangeNothingButTheirLogBit : Obligations.ErrorsChangeNothingButTheirLogBit := by
  intro w s t r ht one not_ok
  rw [runWord_eq] at ht
  cases ht
  obtain ⟨e, raised⟩ := exists_wordError_of_responseStatus_ne_zero one not_ok
  rw [wordEffect_of_wordError raised, response_of_wordError one raised, responseStatus_responseWord]
  rfl

/-- Settles O32: the status tells the error raised, each error has its cause, and its DATA is that of R176. -/
theorem eachErrorHasItsOneCause : Obligations.EachErrorHasItsOneCause := by
  intro w s t r ht one
  rw [runWord_eq] at ht
  cases ht
  have raised_iff := responseStatus_eq_code_iff one
  refine ⟨(raised_iff .illegal).trans wordError_eq_illegal_iff,
    (raised_iff .noCheckpoint).trans wordError_eq_noCheckpoint_iff,
    (raised_iff .notConfigured).trans wordError_eq_notConfigured_iff,
    (raised_iff .configError).trans wordError_eq_configError_iff,
    fun h => responseData_of_wordError one ((raised_iff .configError).1 h), fun not_ok not_config => ?data⟩
  case data =>
    obtain ⟨e, raised⟩ := exists_wordError_of_responseStatus_ne_zero one not_ok
    rw [responseData_of_wordError one raised]
    cases e with
    | configError => exact absurd ((raised_iff .configError).2 raised) not_config
    | notConfigured | noCheckpoint | illegal => rfl

end Sys2Proof.Machine

/-!
SUPPORT. The round trip of the encoding (R70 to R77), and the command word of an assembly line (R85).
-/

namespace Sys2Proof.Machine

@[simp] theorem decodeByteForm_setWidth (b : Byte) (mk : Byte → Instr) :
    decodeByteForm (b.setWidth 16) mk = .ok (mk b) := by
  have high_zero : (b.setWidth 16).extractLsb' 8 8 = 0 := by
    ext j hj
    simp
  have low_byte : (b.setWidth 16).extractLsb' 0 8 = b := by
    ext j hj
    have in_operand : j < 16 := by omega
    simp [BitVec.getLsbD_eq_getElem hj, in_operand]
  rw [decodeByteForm_of_argFits high_zero, low_byte]

/-- The operand field of a command decodes to the command (R73 to R75). -/
theorem decodeArg_argOf (i : Instr) : decodeArg i.mnemonic (argOf i) = .ok i := by
  cases i
  case absorb | encrypt | decrypt => exact decodeByteForm_setWidth _ _
  all_goals rfl

/-- Settles O2: the opcode names the mnemonic, RSV is 0, and the operand field decodes to the command. -/
theorem encodedCommandDecodesToItself : Obligations.EncodedCommandDecodesToItself := by
  intro i
  have named : mnemonicOfOpcode (opcField (encode i)) = some i.mnemonic := by simp
  rw [decode_eq_decodeArg named (rsvField_encode i), argField_encode, decodeArg_argOf]

/-- Settles O3: an accepted word is the word of the command its fields name. -/
theorem decodedWordIsItsCommandsWord : Obligations.DecodedWordIsItsCommandsWord :=
  fun _ _ => encode_eq_of_decode_eq_ok

/-- Settles O5: each listed word, decoded. -/
theorem specWordsDecodeAsListed : Obligations.SpecWordsDecodeAsListed := by
  unfold Obligations.SpecWordsDecodeAsListed
  decide

/-- A command word as a number: the opcode above the operand (R70, R77). -/
theorem encode_eq_ofInt (i : Instr) :
    encode i = BitVec.ofInt 32 ((opcodeOf i.mnemonic).toNat * 2 ^ 24 + (argOf i).toNat) := by
  apply BitVec.eq_of_toNat_eq
  have opcode_lt := (opcodeOf i.mnemonic).isLt
  have operand_lt := (argOf i).isLt
  rw [encode, toNat_append_fields, BitVec.toNat_ofInt]
  simp
  omega

/-- The word of a line whose mnemonic takes an operand: the opcode plus the operand where it fits its field, none where it
does not (R85). -/
theorem map_encode_toInstr {m : Mnemonic} {n bound : Int}
    (fits : m.form.operandFits (some n) = decide (0 ≤ n ∧ n ≤ bound)) (mnemonic_eq : (m.withOperand n).mnemonic = m)
    (operand_eq : 0 ≤ n → n ≤ bound → ((argOf (m.withOperand n)).toNat : Int) = n) :
    (AsmLine.mk m (some n)).toInstr.map encode =
      if 0 ≤ n ∧ n ≤ bound then some (BitVec.ofInt 32 ((opcodeOf m).toNat * 2 ^ 24 + n)) else none := by
  have accepted : (AsmLine.mk m (some n)).wellFormed = decide (0 ≤ n ∧ n ≤ bound) := fits
  rw [AsmLine.toInstr, accepted]
  by_cases in_field : 0 ≤ n ∧ n ≤ bound
  · simp [in_field, encode_eq_ofInt, mnemonic_eq, operand_eq in_field.1 in_field.2]
  · simp [in_field]

theorem toNat_ofInt_of_fits (w : Nat) {n : Int} (h : 0 ≤ n) (hn : n < 2 ^ w) : ((BitVec.ofInt w n).toNat : Int) = n := by
  rw [BitVec.toNat_ofInt, Int.toNat_of_nonneg (Int.emod_nonneg _ (by positivity))]
  exact Int.emod_eq_of_lt h (mod_cast hn)

theorem toNat_byteOperand {n : Int} (h : 0 ≤ n) (hn : n ≤ 255) :
    ((((BitVec.ofInt 8 n).setWidth 16 : BitVec 16)).toNat : Int) = n := by
  rw [BitVec.toNat_setWidth_of_le (by omega)]
  exact toNat_ofInt_of_fits 8 h (by omega)

/-- Settles O6: each line's operand check is that of its form, and an operand that fits is the operand field. -/
theorem assemblerTakesExactlyTheOperandsThatFit : Obligations.AssemblerTakesExactlyTheOperandsThatFit :=
  fun _ =>
    ⟨map_encode_toInstr (m := .construct) rfl rfl fun h hn => toNat_ofInt_of_fits 16 h (by omega),
      map_encode_toInstr (m := .absorb) rfl rfl toNat_byteOperand,
      map_encode_toInstr (m := .encrypt) rfl rfl toNat_byteOperand,
      map_encode_toInstr (m := .decrypt) rfl rfl toNat_byteOperand⟩

end Sys2Proof.Machine

/-!
SUPPORT. One mix as the XORs it adds (R102 to R104), and a canonical block through its word view (R52, R53).
-/

namespace Sys2Proof.Machine

/-- A value XORed with the XOR of the four is the XOR of the other three (R103). -/
theorem xor_xor_four (a b c d : W64) :
    a ^^^ (a ^^^ b ^^^ c ^^^ d) = b ^^^ c ^^^ d ∧ b ^^^ (a ^^^ b ^^^ c ^^^ d) = a ^^^ c ^^^ d ∧
    c ^^^ (a ^^^ b ^^^ c ^^^ d) = a ^^^ b ^^^ d ∧ d ^^^ (a ^^^ b ^^^ c ^^^ d) = a ^^^ b ^^^ c := by
  refine ⟨?_, ?_, ?_, ?_⟩ <;> ext j <;> simp only [BitVec.getElem_xor] <;> grind

/-- Settles O8: each XOR with the four's XOR leaves the other three. -/
theorem mixAddsTheXorOfTheOtherThree : Obligations.MixAddsTheXorOfTheOtherThree := by
  intro c x y
  simp only [mix, xor_xor_four]

/-- The word view written back holds every byte of the block (R52, R53). -/
theorem read_ofSubBlocks_toSubBlocks (m : Memory) {a : Nat} (h : a < 256) :
    (Memory.ofSubBlocks m.toSubBlocks).read a = m.read a := by
  obtain ⟨i, k, b, hk, hb, rfl⟩ : ∃ (i : Fin 8) (k b : Nat), k < 4 ∧ b < 8 ∧ a = 8 * (4 * i.val + k) + b :=
    ⟨⟨a / 32, by omega⟩, a / 8 % 4, a % 8, by omega, by omega, by simp only; omega⟩
  rw [read_ofSubBlocks _ (by omega) hb, getD_words _ i hk, subBlock_toSubBlocks, getD_words_subBlockAt m i hk,
    extractLsb'_wordAt m _ hb]

/-- Settles O12: both arrays are canonical and hold the same 256 bytes. -/
theorem blockSurvivesItsWordView : Obligations.BlockSurvivesItsWordView := by
  refine fun m hm => memory_ext (wf_ofSubBlocks _) hm fun a => ?_
  by_cases ha : a < 256
  · exact read_ofSubBlocks_toSubBlocks m ha
  · rw [read_above (wf_ofSubBlocks _) (by omega), read_above hm (by omega)]

end Sys2Proof.Machine

/-!
SUPPORT. What a command that raises no error leaves, said once, and what a command, a command word and a run of commands
keep: the slot, ERRLOG, the live context and the host's side of the state (R26, R173).
-/

namespace Sys2Proof.Machine

/-- The state a command answers where it raises no error: its effect past the checks of R171, R172 and R174. -/
def success (i : Instr) (s : State) : State :=
  match i with
  | .construct rate => (s.freshContext (rateRegister rate)).respond .ok 0
  | .absorb b => s.trigger.finishByte (s.trigger.byteAtCursor ^^^ b) 0
  | .squeeze => s.trigger.advanceCursor.respond .ok (zext16 s.trigger.byteAtCursor)
  | .encrypt p => s.trigger.finishByte (s.trigger.byteAtCursor ^^^ p) (zext16 (s.trigger.byteAtCursor ^^^ p))
  | .decrypt c => s.trigger.finishByte c (zext16 (s.trigger.byteAtCursor ^^^ c))
  | .pad => s.padBlock.respond .ok 0
  | .sum => s.padBlock.respondBytes (s.padBlock.blk.firstBytes s.rate.toNat)
  | .reset => s.clearContext.respond .ok 0
  | .save => s.saveContext.respond .ok 0
  | .restore => s.restoreContext.respond .ok 0
  | .size => s.respond .ok (zext16 s.rate)
  | .blocksize => s.respond .ok (capacityData s.rate)
  | .status => s.respond .ok (statusView s)

theorem effect_eq_success {i : Instr} {s : State} (h : commandError i s = none) : effect i s = success i s := by
  have valid := valid_of_commandError_none h
  cases i
  case construct rate =>
    have accepted : rateAccepted rate = true := by simpa [commandError] using h
    exact if_pos accepted
  case restore =>
    have saved : s.ckValid = true := by simpa [commandError] using h
    exact if_pos saved
  case reset | status => rfl
  case sum => rw [effect, needContext_valid (valid rfl), padBlock_rate, success]
  all_goals rw [effect, needContext_valid (valid rfl), success]

/-- On a valid context the nine context commands raise no error (R172). -/
theorem effect_of_valid {i : Instr} (hi : needsContext i = true) {s : State} (hv : s.valid = true) :
    effect i s = success i s := by
  apply effect_eq_success
  cases i
  case construct | reset | restore | status => cases hi
  all_goals exact if_pos hv

/-- A command raises its error and does nothing else, or succeeds (R173). -/
theorem effect_cases (i : Instr) (s : State) :
    (∃ e, commandError i s = some e ∧ effect i s = s.raise e (e.data (encode i))) ∨
      (commandError i s = none ∧ effect i s = success i s) := by
  cases h : commandError i s with
  | none => exact .inr ⟨rfl, effect_eq_success h⟩
  | some e => exact .inl ⟨e, rfl, effect_of_commandError h⟩

/-- A command word runs as the command whose word it is, or raises ILLEGAL (R76, R175). -/
theorem wordEffect_cases (w : Word) (s : State) :
    (∃ i, encode i = w ∧ wordEffect w s = effect i s) ∨ wordEffect w s = s.raise .illegal 0 := by
  unfold wordEffect
  cases h : decode w with
  | ok i => exact .inl ⟨i, encode_eq_of_decode_eq_ok h, rfl⟩
  | error r => exact .inr rfl

/-- Whether a command raises an error depends on VALID and CK_VALID alone (R176). -/
theorem commandError_congr (i : Instr) {s u : State} (hv : u.valid = s.valid) (hc : u.ckValid = s.ckValid) :
    commandError i u = commandError i s := by
  cases i <;> simp only [commandError, hv, hc]

/-! ## The slot -/

/-- Two states with the same checkpoint slot. -/
def sameSlot (s t : State) : Prop :=
  t.ckValid = s.ckValid ∧ t.ckRate = s.ckRate ∧ t.ckCursor = s.ckCursor ∧ t.ckBlk = s.ckBlk

theorem sameSlot_refl (s : State) : sameSlot s s := ⟨rfl, rfl, rfl, rfl⟩

theorem sameSlot.trans {s t u : State} (h : sameSlot s t) (h' : sameSlot t u) : sameSlot s u := by
  obtain ⟨hv, hr, hc, hb⟩ := h
  obtain ⟨hv', hr', hc', hb'⟩ := h'
  exact ⟨hv'.trans hv, hr'.trans hr, hc'.trans hc, hb'.trans hb⟩

theorem sameSlot_success {i : Instr} (hi : i ≠ .save) (s : State) : sameSlot s (success i s) := by
  cases i
  case save => exact absurd rfl hi
  all_goals simp [sameSlot, success]

/-- SAVE alone writes the slot (R33, R34). -/
theorem sameSlot_effect {i : Instr} (hi : i ≠ .save) (s : State) : sameSlot s (effect i s) := by
  obtain ⟨e, _, raised⟩ | ⟨_, succeeded⟩ := effect_cases i s
  · rw [raised]
    exact sameSlot_refl s
  · rw [succeeded]
    exact sameSlot_success hi s

/-! ## ERRLOG -/

/-- ERRLOG after a command: the bit of the error it raised, and every bit that was set (R35). -/
theorem effect_errlog (i : Instr) (s : State) :
    (effect i s).errlog = (commandError i s).elim s.errlog (logError s.errlog) := by
  obtain ⟨e, he, raised⟩ | ⟨he, succeeded⟩ := effect_cases i s
  · rw [raised, he]
    rfl
  · rw [succeeded, he]
    cases i <;> simp [success]

/-- ERRLOG after a command word: the bit of the error it raised, and every bit that was set (R35). -/
theorem wordEffect_errlog (w : Word) (s : State) :
    (wordEffect w s).errlog = (wordError w s).elim s.errlog (logError s.errlog) := by
  unfold wordEffect wordError
  cases decode w with
  | ok i => exact effect_errlog i s
  | error r => rfl

/-! ## The live context -/

/-- The commands that make, replace or clear the live context (R28, R29). -/
def replacesContext : Instr → Bool
  | .construct _ | .restore | .reset => true
  | .absorb _ | .squeeze | .encrypt _ | .decrypt _ | .pad | .sum | .save | .size | .blocksize | .status => false

/-- CONSTRUCT, RESTORE and RESET alone write VALID and RATE (R26). -/
theorem effect_valid_rate {i : Instr} (hi : replacesContext i = false) (s : State) :
    (effect i s).valid = s.valid ∧ (effect i s).rate = s.rate := by
  obtain ⟨e, _, raised⟩ | ⟨_, succeeded⟩ := effect_cases i s
  · rw [raised]
    exact ⟨rfl, rfl⟩
  · rw [succeeded]
    cases i
    case construct | restore | reset => cases hi
    all_goals simp [success]

theorem sameContext_refl (s : State) : sameContext s s := ⟨rfl, rfl, rfl, rfl⟩

theorem sameContext.trans {s t u : State} (h : sameContext s t) (h' : sameContext t u) : sameContext s u := by
  obtain ⟨hv, hr, hc, hb⟩ := h
  obtain ⟨hv', hr', hc', hb'⟩ := h'
  exact ⟨hv'.trans hv, hr'.trans hr, hc'.trans hc, hb'.trans hb⟩

/-- The commands that read the state and write no part of the live context (R26). -/
def keepsContext : Instr → Bool
  | .save | .size | .blocksize | .status => true
  | .construct _ | .absorb _ | .squeeze | .encrypt _ | .decrypt _ | .pad | .sum | .reset | .restore => false

/-- SAVE, SIZE, BLOCKSIZE and STATUS leave the live context as it is (R150, R152 to R154). -/
theorem sameContext_effect_of_keepsContext {i : Instr} (hi : keepsContext i = true) (s : State) :
    sameContext s (effect i s) := by
  obtain ⟨e, _, raised⟩ | ⟨_, succeeded⟩ := effect_cases i s
  · rw [raised]
    exact sameContext_refl s
  · rw [succeeded]
    cases i
    case save | size | blocksize | status => exact sameContext_refl s
    all_goals cases hi

/-! ## The host's side -/

/-- No command gives more than 255 responses (R81). -/
theorem responseCount_le (i : Instr) (s : State) : responseCount i s ≤ 255 := by
  have rate_lt := s.rate.isLt
  rw [responseCount_eq]
  split <;> omega

/-- A command word answers at most 255 times and leaves the host's own fields as they are (R64, R81). -/
theorem answers_wordEffect (w : Word) (s : State) : ∃ n ≤ 255, Answers n s (wordEffect w s) := by
  obtain ⟨i, _, ran⟩ | refused := wordEffect_cases w s
  · exact ⟨_, responseCount_le i s, ran ▸ answers_effect i s⟩
  · exact ⟨1, by decide, refused ▸ answers_raise s _ _⟩

/-! ## Runs of commands -/

/-- The effects of commands one after another (R63). -/
def effects (is : List Instr) (s : State) : State := is.foldl (fun s i => effect i s) s

@[simp] theorem effects_nil (s : State) : effects [] s = s := rfl

@[simp] theorem effects_cons (i : Instr) (is : List Instr) (s : State) :
    effects (i :: is) s = effects is (effect i s) := rfl

@[simp] theorem effects_append (is js : List Instr) (s : State) :
    effects (is ++ js) s = effects js (effects is s) := List.foldl_append

/-- A run of commands answers their effects. -/
theorem runCommands_eq_effects (is : List Instr) (s : State) : runCommands is s = .next (effects is s) :=
  runCommands_eq is s

/-- What holds at the start and is kept by every command of a run holds at its end. -/
theorem effects_induction {P : State → Prop} {is : List Instr} {s : State} (start : P s)
    (keeps : ∀ i ∈ is, ∀ u, P u → P (effect i u)) : P (effects is s) :=
  List.foldlRecOn is _ start fun u hu i hi => keeps i hi u hu

/-- Two runs of one list of commands: a relation kept by every command of the list holds at their ends. -/
theorem effects_relation {R : State → State → Prop} {is : List Instr} {s u : State} (start : R s u)
    (keeps : ∀ i ∈ is, ∀ t v, R t v → R (effect i t) (effect i v)) : R (effects is s) (effects is u) :=
  List.foldl_rel start fun i hi t v => keeps i hi t v

/-- A run without SAVE leaves the slot as it is (R33, R34). -/
theorem sameSlot_effects {is : List Instr} (h : ∀ i ∈ is, i ≠ .save) (s : State) : sameSlot s (effects is s) :=
  effects_induction (P := sameSlot s) (sameSlot_refl s) fun i hi u same => same.trans (sameSlot_effect (h i hi) u)

end Sys2Proof.Machine

/-!
SUPPORT. ERRLOG over words and steps (R35), and what it reaches (R181).
-/

namespace Sys2Proof.Machine

/-- An error sets the ERRLOG bit one below its status code and no other (R35, R173). -/
theorem getLsbD_logError (log : BitVec 4) (e : ErrorKind) {k : Nat} (hk : k < 4) :
    (logError log e).getLsbD k = (log.getLsbD k || e.code.toNat == k + 1) := by
  rw [logError, BitVec.getLsbD_or]
  congr 1
  cases e <;> interval_cases k <;> decide

/-- ERRLOG after a command word, told by its responses (R35). -/
theorem wordEffect_errlog_complete (w : Word) (s : State) :
    ∃ new, (wordEffect w s).rspOut = s.rspOut ++ new ∧
      ∀ k, k < 4 →
        (wordEffect w s).errlog.getLsbD k = (s.errlog.getLsbD k || new.any fun r => (responseStatus r).toNat == k + 1) := by
  rw [wordEffect_errlog]
  cases raised : wordError w s with
  | none =>
    obtain ⟨new, answers, all_ok⟩ := wordEffect_of_wordError_none raised
    have none_logged (k : Nat) : (new.any fun r => (responseStatus r).toNat == k + 1) = false :=
      List.any_eq_false.2 fun r hr => by simp [all_ok r hr]
    exact ⟨new, answers, fun k _ => by simp [none_logged]⟩
  | some e =>
    rw [wordEffect_of_wordError raised]
    exact ⟨_, raise_rspOut s e _, fun k hk => by simp [getLsbD_logError s.errlog e hk, Status.code]⟩

/-- A command word clears no bit of ERRLOG (R35). -/
theorem wordEffect_errlog_mono {w : Word} {s : State} {k : Nat} (h : s.errlog.getLsbD k = true) :
    (wordEffect w s).errlog.getLsbD k = true := by
  obtain ⟨_, _, errlog_eq⟩ := wordEffect_errlog_complete w s
  rw [errlog_eq k (BitVec.lt_of_getLsbD h), h, Bool.true_or]

/-- Settles O31: a word logs the error it raises, which its one response carries, and of the steps without reset only one
that runs a word writes ERRLOG. -/
theorem errorLogIsStickyAndComplete : Obligations.ErrorLogIsStickyAndComplete := by
  refine ⟨fun w s t ht => ?word, fun s t no_rst ht k hk => ?step⟩
  case word =>
    rw [runWord_eq] at ht
    cases ht
    exact wordEffect_errlog_complete w s
  case step =>
    obtain ⟨r, rest, _, rfl⟩ | rfl | ⟨w, rest, _, _, rfl⟩ := step_cases no_rst ht
    · exact hk
    · exact hk
    · exact wordEffect_errlog_mono hk

/-- The state with another ERRLOG. -/
def State.withLog (s : State) (log : BitVec 4) : State := { s with errlog := log }

theorem trigger_withLog (s : State) (log : BitVec 4) : (s.withLog log).trigger = s.trigger.withLog log :=
  (apply_ite (State.withLog · log) (s.cursor = s.rate) s.permute s).symm

theorem padBlock_withLog (s : State) (log : BitVec 4) : (s.withLog log).padBlock = s.padBlock.withLog log :=
  (apply_ite (State.withLog · log) (s.cursor = 0) s s.permute).symm

/-- No command but STATUS reads ERRLOG (R36, R181). -/
theorem success_withLog {i : Instr} (hi : i ≠ .status) (s : State) (log : BitVec 4) :
    success i (s.withLog log) = (success i s).withLog log := by
  cases i
  case status => exact absurd rfl hi
  case absorb | squeeze | encrypt | decrypt =>
    simp only [success, trigger_withLog]
    rfl
  case pad | sum =>
    simp only [success, padBlock_withLog]
    rfl
  all_goals rfl

/-- Settles O33: with another ERRLOG the command raises the same error, or succeeds and leaves the same state but for
ERRLOG. -/
theorem errorLogReachesNothingButStatus : Obligations.ErrorLogReachesNothingButStatus := by
  intro i s t log hi ht
  rw [exec_eq] at ht
  cases ht
  refine ⟨effect i (s.withLog log), exec_eq i _, ?_⟩
  have same_error : commandError i (s.withLog log) = commandError i s := commandError_congr i rfl rfl
  obtain ⟨e, he, raised⟩ | ⟨he, succeeded⟩ := effect_cases i s
  · rw [raised, effect_of_commandError (same_error.trans he)]
    rfl
  · rw [succeeded, effect_eq_success (same_error.trans he), success_withLog hi]
    rfl

end Sys2Proof.Machine

/-!
SUPPORT. The ports and the step (R186, R187, R195): what a step without reset does, in which order responses leave, and how
long a command takes.
-/

namespace Sys2Proof.Machine

/-- Settles O34: the core is idle and a word is offered, so the step runs it, and it decodes. -/
theorem stepRunsTheDecodedCommand : Obligations.StepRunsTheDecodedCommand := by
  intro s w rest i no_rst offered idle queued decoded
  rw [step_eq, cycleEffect, exec_eq]
  simp [no_rst, offered, idle, queued, wordEffect, decoded, State.nextCycle]

/-- Settles O35: the arms of a cycle without reset. -/
theorem coreTakesACommandOnlyWhenIdle : Obligations.CoreTakesACommandOnlyWhenIdle := by
  intro s no_rst
  rw [step_eq, cycleEffect, if_neg (Bool.eq_false_iff.1 no_rst), nextCycle_rspOut, nextCycle_cmdIn]
  cases waiting : s.rspOut with
  | cons r rest => simp only [apply_ite Host.Outcome.next, State.nextCycle, waiting]
  | nil =>
    cases queued : s.cmdIn with
    | cons w rest => simp only [runWord_eq, apply_ite Host.Outcome.next, State.nextCycle, waiting, queued]
    | nil => simp only [State.nextCycle, waiting, queued]

/-- Settles O36: a step under reset is the reset of the core, whose fields are literals. -/
theorem hardwareResetZeroesTheCore : Obligations.HardwareResetZeroesTheCore :=
  ⟨fun _ rst => ⟨_, step_of_rst rst, rfl⟩, rfl, rfl, rfl, read_nil, rfl, rfl, rfl, read_nil, rfl, rfl, rfl⟩

/-- Settles O37: a delivered response moves from the waiting words to the taken ones; a command word adds at the end. -/
theorem responsesLeaveInCommandOrder : Obligations.ResponsesLeaveInCommandOrder := by
  intro s t no_rst ht
  obtain ⟨r, rest, waiting, rfl⟩ | rfl | ⟨w, rest, idle, queued, rfl⟩ := step_cases no_rst ht
  case inl => exact ⟨[], by simp [waiting], absurd rfl⟩
  case inr.inl => exact ⟨[], by simp, absurd rfl⟩
  case inr.inr =>
    obtain ⟨n, _, new, answers, _, _, same_queue, _, same_received⟩ :=
      answers_wordEffect w { s with cmdIn := rest, host := s.host.tail }
    exact ⟨new, by rw [answers, same_received, List.append_assoc], fun _ => ⟨idle, w, by rw [same_queue, queued]⟩⟩

/-- Settles O38: a step answers the effect of its cycle. -/
theorem everyStepAnswersANextState : Obligations.EveryStepAnswersANextState := fun s => ⟨_, step_eq s⟩

theorem hostCycle_of_host_nil {s : State} (h : s.host = []) : s.hostCycle = HostCycle.attentive := by
  rw [State.hostCycle, h, List.headD_nil]

theorem nextCycle_of_host_nil {s : State} (h : s.host = []) : s.nextCycle = s := by
  rw [State.nextCycle, h, List.tail_nil, ← h]

/-- An attentive host takes every waiting response, one a step (R187). -/
theorem run_delivers : ∀ (rs : List Word) {s : State}, s.host = [] → s.rspOut = rs →
    Host.Core.run core rs.length s = .next { s with rspOut := [], received := s.received ++ rs }
  | [], s, _, waiting => by
    show Host.Outcome.next s = _
    rw [List.append_nil, ← waiting]
    rfl
  | r :: rs, s, no_levels, waiting => by
    have taken : cycleEffect s.hostCycle s.nextCycle = { s with rspOut := rs, received := s.received ++ [r] } := by
      simp [cycleEffect, hostCycle_of_host_nil no_levels, nextCycle_of_host_nil no_levels, waiting, HostCycle.attentive]
    rw [List.length_cons, run_succ, taken, List.append_cons s.received r rs]
    exact run_delivers rs (s := { s with rspOut := rs, received := s.received ++ [r] }) no_levels rfl

/-- An attentive host's word runs in one step where no response waits. -/
theorem cycleEffect_of_attentive {s : State} {w : Word} {rest : List Word} (no_levels : s.host = [])
    (idle : s.rspOut = []) (queued : s.cmdIn = w :: rest) :
    cycleEffect s.hostCycle s.nextCycle = wordEffect w { s with cmdIn := rest } := by
  simp [cycleEffect, hostCycle_of_host_nil no_levels, nextCycle_of_host_nil no_levels, idle, queued, HostCycle.attentive]

/-- Settles O39: one step runs the word, and each step after it takes one of its responses. -/
theorem everyCommandCompletesWithinItsResponses : Obligations.EveryCommandCompletesWithinItsResponses := by
  intro s w rest no_levels idle queued
  obtain ⟨n, n_le, new, answers, rfl, _, _, same_levels, same_received⟩ :=
    answers_wordEffect w { s with cmdIn := rest }
  refine ⟨_, runWord_eq w _, ?bound, ?run⟩
  case bound =>
    rw [answers]
    simpa [idle] using n_le
  case run =>
    rw [Nat.add_comm, run_succ, cycleEffect_of_attentive no_levels idle queued,
      run_delivers _ (same_levels.trans no_levels) rfl, same_received]

end Sys2Proof.Machine

/-!
SUPPORT. The invariant of the machine (R42), kept by every command, command word and step; and which command writes which
element (R26, R28, R33).
-/

namespace Sys2Proof.Machine

/-- Settles O40: the state after reset is a literal. -/
theorem resetMeetsTheInvariant : Obligations.ResetMeetsTheInvariant := by
  unfold Obligations.ResetMeetsTheInvariant
  decide

/-! ## (I1) and (I2): the live context -/

/-- A valid context with its cursor at most its positive rate meets (I1) and (I2). -/
theorem liveInv_of_valid {s : State} (hv : s.valid = true) (hr : 1 ≤ s.rate.toNat) (hc : s.cursor.toNat ≤ s.rate.toNat) :
    s.LiveInv :=
  ⟨fun _ => ⟨hr, hc⟩, fun invalid => absurd (hv.symm.trans invalid) (by decide)⟩

/-- Below RATE the cursor does not wrap when it advances (R30). -/
theorem toNat_cursor_add_one {c r : BitVec 8} (h : c.toNat < r.toNat) : (c + 1).toNat = c.toNat + 1 := by
  have rate_lt := r.isLt
  bv_omega

theorem toNat_rateRegister {rate : BitVec 16} (h : rateAccepted rate = true) :
    (rateRegister rate).toNat = rate.toNat := by
  have bounds := rateAccepted_iff.1 h
  rw [rateRegister_eq, BitVec.toNat_ofNat]
  omega

/-- A command that succeeds keeps (I1) and (I2) (R42). -/
theorem liveInv_success {i : Instr} {s : State} (h : commandError i s = none) (live : s.LiveInv) (slot : s.SlotInv) :
    (success i s).LiveInv := by
  have valid := valid_of_commandError_none h
  cases i
  case construct rate =>
    have accepted : rateAccepted rate = true := by simpa [commandError] using h
    refine liveInv_of_valid rfl ?_ (Nat.zero_le _)
    exact (toNat_rateRegister accepted).symm ▸ (rateAccepted_iff.1 accepted).1
  case absorb | encrypt | decrypt | squeeze =>
    obtain ⟨rate_pos, cursor_le⟩ := live.1 (valid rfl)
    have below_rate := trigger_cursor_lt rate_pos cursor_le
    refine liveInv_of_valid (by simp [success, valid rfl]) (by simpa [success] using rate_pos) ?_
    simp only [success, finishByte_cursor, finishByte_rate, respond_cursor, respond_rate, advanceCursor_cursor,
      advanceCursor_rate, trigger_rate]
    rw [toNat_cursor_add_one below_rate]
    exact below_rate
  case pad | sum =>
    obtain ⟨rate_pos, _⟩ := live.1 (valid rfl)
    exact liveInv_of_valid (by simp [success, valid rfl]) (by simpa [success] using rate_pos) (by simp [success])
  case reset => exact ⟨nofun, fun _ => ⟨rfl, rfl, rfl⟩⟩
  case restore =>
    have saved : s.ckValid = true := by simpa [commandError] using h
    obtain ⟨rate_pos, cursor_le⟩ := slot.1 saved
    exact liveInv_of_valid rfl rate_pos cursor_le
  case save | size | blocksize | status => exact live

/-! ## (I3) and (I4): the slot -/

/-- (I3) and (I4) are of the slot alone. -/
theorem slotInv_of_sameSlot {s t : State} (same : sameSlot s t) (h : s.SlotInv) : t.SlotInv := by
  obtain ⟨hv, hr, hc, hb⟩ := same
  simpa only [State.SlotInv, hv, hr, hc, hb] using h

/-- A saved context meets (I3) and (I4) if it met (I1) (R150). -/
theorem slotInv_saveContext {s : State} (hv : s.valid = true) (live : s.LiveInv) : s.saveContext.SlotInv :=
  ⟨fun _ => live.1 hv, nofun⟩

/-! ## Canonical arrays -/

/-- A command that succeeds keeps both arrays canonical. -/
theorem arraysCanonical_success (i : Instr) {s : State} (h : s.ArraysCanonical) : (success i s).ArraysCanonical := by
  obtain ⟨live_wf, slot_wf⟩ := h
  cases i
  case construct | reset => exact ⟨wf_nil, slot_wf⟩
  case absorb | encrypt | decrypt =>
    exact ⟨wf_finishByte (wf_trigger live_wf) _ _, by simpa [success] using slot_wf⟩
  case squeeze => exact ⟨wf_trigger live_wf, by simpa [success] using slot_wf⟩
  case pad | sum => exact ⟨wf_padBlock live_wf, by simpa [success] using slot_wf⟩
  case save => exact ⟨live_wf, live_wf⟩
  case restore => exact ⟨slot_wf, slot_wf⟩
  case size | blocksize | status => exact ⟨live_wf, slot_wf⟩

/-! ## The whole invariant -/

theorem responsesLegal_of_answers {n : Nat} {s t : State} (h : s.ResponsesLegal) (answers : Answers n s t) :
    t.ResponsesLegal := by
  obtain ⟨new, appended, _, new_legal, _⟩ := answers
  rw [State.ResponsesLegal, appended, List.all_append, h, new_legal, Bool.and_self]

/-- An error keeps the invariant: it changes ERRLOG and adds a legal response (R173). -/
theorem inv_raise {s : State} (h : s.Inv) (e : ErrorKind) (d : BitVec 16) : (s.raise e d).Inv := by
  obtain ⟨live, slot, canonical, legal⟩ := h
  exact ⟨live, slot, canonical, responsesLegal_of_answers legal (answers_raise s e d)⟩

/-- Every command keeps the invariant (R42). -/
theorem inv_effect (i : Instr) {s : State} (h : s.Inv) : (effect i s).Inv := by
  obtain ⟨e, _, raised⟩ | ⟨no_error, succeeded⟩ := effect_cases i s
  · exact raised ▸ inv_raise h e _
  · obtain ⟨live, slot, canonical, legal⟩ := h
    refine ⟨succeeded ▸ liveInv_success no_error live slot, ?_, succeeded ▸ arraysCanonical_success i canonical,
      responsesLegal_of_answers legal (answers_effect i s)⟩
    by_cases saves : i = .save
    · subst saves
      exact succeeded ▸ slotInv_saveContext (valid_of_commandError_none no_error rfl) live
    · exact slotInv_of_sameSlot (sameSlot_effect saves s) slot

/-- Every command word keeps the invariant (R42). -/
theorem inv_wordEffect (w : Word) {s : State} (h : s.Inv) : (wordEffect w s).Inv := by
  obtain ⟨i, _, ran⟩ | refused := wordEffect_cases w s
  · exact ran ▸ inv_effect i h
  · exact refused ▸ inv_raise h _ _

/-- A taken response leaves legal ones behind. -/
theorem inv_of_rspOut_tail {s : State} {r : Word} {rest received : List Word} {levels : List HostCycle}
    (waiting : s.rspOut = r :: rest) (h : s.Inv) :
    State.Inv { s with rspOut := rest, received := received, host := levels } := by
  obtain ⟨live, slot, canonical, legal⟩ := h
  rw [State.ResponsesLegal, waiting, List.all_cons, Bool.and_eq_true] at legal
  exact ⟨live, slot, canonical, legal.2⟩

/-- Settles O41: reset gives the reset state's core, a delivered response leaves the others, and a command word keeps the
invariant. -/
theorem everyStepKeepsTheInvariant : Obligations.EveryStepKeepsTheInvariant := by
  intro s t h ht
  by_cases rst : s.hostCycle.rst = true
  · rw [step_of_rst rst] at ht
    cases ht
    exact resetMeetsTheInvariant
  · obtain ⟨r, rest, waiting, rfl⟩ | rfl | ⟨w, rest, _, _, rfl⟩ := step_cases (Bool.eq_false_iff.2 rst) ht
    · exact inv_of_rspOut_tail waiting h
    · exact h
    · exact inv_wordEffect w h

/-! ## The writers of each element -/

/-- A command word leaves the slot as it is, unless it is that of SAVE on a valid context, after which CK_VALID is set
(R33). -/
theorem wordEffect_slot (w : Word) (s : State) :
    sameSlot s (wordEffect w s) ∨ (s.valid = true ∧ (wordEffect w s).ckValid = true ∧ w = encode .save) := by
  obtain ⟨i, rfl, ran⟩ | refused := wordEffect_cases w s
  · rw [ran]
    by_cases saves : i = .save
    · subst saves
      cases hv : s.valid with
      | true => exact .inr ⟨rfl, by rw [effect_of_valid rfl hv]; rfl, rfl⟩
      | false =>
        rw [effect_of_invalid rfl hv]
        exact .inl (sameSlot_refl s)
    · exact .inl (sameSlot_effect saves s)
  · rw [refused]
    exact .inl (sameSlot_refl s)

/-- Settles O42: of the steps without reset only one that runs a word can write the slot, and its word is that of SAVE. -/
theorem slotChangesOnlyBySaveOrHardwareReset : Obligations.SlotChangesOnlyBySaveOrHardwareReset := by
  refine ⟨fun s t no_rst ht => ?step, fun s t rst ht => ?rst, fun s no_checkpoint => ?restore⟩
  case step =>
    obtain ⟨r, rest, _, rfl⟩ | rfl | ⟨w, rest, idle, queued, rfl⟩ := step_cases no_rst ht
    · exact ⟨id, .inl (sameSlot_refl s)⟩
    · exact ⟨id, .inl (sameSlot_refl s)⟩
    · obtain same | ⟨hv, saved, rfl⟩ := wordEffect_slot w { s with cmdIn := rest, host := s.host.tail }
      · have ⟨same_valid, _⟩ := same
        exact ⟨same_valid.trans, .inl same⟩
      · exact ⟨fun _ => saved, .inr ⟨idle, hv, saved, rest, queued⟩⟩
  case rst =>
    rw [step_of_rst rst] at ht
    cases ht
    rfl
  case restore =>
    have raised : commandError .restore s = some .noCheckpoint := commandError_eq_noCheckpoint_iff.2 ⟨rfl, no_checkpoint⟩
    rw [exec_eq, effect_of_commandError raised]
    rfl

theorem replacesContext_eq_false {i : Instr} (hcons : ∀ rate, i ≠ .construct rate) (hrestore : i ≠ .restore)
    (hreset : i ≠ .reset) : replacesContext i = false := by
  cases i
  case construct rate => exact absurd rfl (hcons rate)
  case restore => exact absurd rfl hrestore
  case reset => exact absurd rfl hreset
  all_goals rfl

/-- A command whose responses are all OK logs no error (R173). -/
theorem effect_errlog_of_all_ok {i : Instr} {s : State}
    (h : ((effect i s).rspOut.drop s.rspOut.length).all (fun r => responseStatus r == 0) = true) :
    (effect i s).errlog = s.errlog := by
  rw [effect_errlog]
  cases raised : commandError i s with
  | none => rfl
  | some e =>
    rw [effect_of_commandError raised] at h
    exact absurd (by simpa [Status.code] using h) e.code_ne_zero

/-- Settles O43: the writers of VALID and RATE, of CURSOR and BLK, of the slot and of ERRLOG, each by its own law. -/
theorem stateChangesOnlyByItsNamedWriters : Obligations.StateChangesOnlyByItsNamedWriters := by
  intro i s t ht
  have executed := ht
  rw [exec_eq] at ht
  cases ht
  refine ⟨fun hcons hrestore hreset => ?valid_rate, fun hcons hrestore hreset hbyte hpad hsum => ?cursor_blk,
    fun hsave => sameSlot_effect hsave s, effect_errlog_of_all_ok⟩
  case valid_rate => exact effect_valid_rate (replacesContext_eq_false hcons hrestore hreset) s
  case cursor_blk =>
    obtain ⟨_, _, persists⟩ := triggerCheckPrecedesEveryByte s
    exact persists i _ hbyte hpad hsum hcons hreset hrestore executed

/-- VALID rises by CONSTRUCT of an accepted rate or by RESTORE of a checkpoint, and falls by RESET (R28). -/
theorem effect_valid_cases (i : Instr) (s : State) :
    (effect i s).valid = s.valid ∨
      ((effect i s).valid = true ∧
        ((∃ rate, i = .construct rate ∧ rateAccepted rate = true) ∨ (i = .restore ∧ s.ckValid = true))) ∨
      ((effect i s).valid = false ∧ i = .reset) := by
  obtain ⟨e, _, raised⟩ | ⟨no_error, succeeded⟩ := effect_cases i s
  · exact .inl (raised ▸ rfl)
  · cases i
    case construct rate =>
      exact .inr (.inl ⟨succeeded ▸ rfl, .inl ⟨rate, rfl, by simpa [commandError] using no_error⟩⟩)
    case restore => exact .inr (.inl ⟨succeeded ▸ rfl, .inr ⟨rfl, by simpa [commandError] using no_error⟩⟩)
    case reset => exact .inr (.inr ⟨rfl, rfl⟩)
    all_goals exact .inl (effect_valid_rate rfl s).1

theorem effect_valid_falls {i : Instr} {s : State} (hv : s.valid = true) (hf : (effect i s).valid = false) :
    i = .reset := by
  obtain same | ⟨rises, _⟩ | ⟨_, hi⟩ := effect_valid_cases i s
  · exact absurd (hf.symm.trans (same.trans hv)) (by decide)
  · exact absurd (hf.symm.trans rises) (by decide)
  · exact hi

theorem effect_valid_rises {i : Instr} {s : State} (hv : s.valid = false) (hr : (effect i s).valid = true) :
    (∃ rate, i = .construct rate ∧ rateAccepted rate = true) ∨ (i = .restore ∧ s.ckValid = true) := by
  obtain same | ⟨_, cause⟩ | ⟨falls, _⟩ := effect_valid_cases i s
  · exact absurd (hr.symm.trans (same.trans hv)) (by decide)
  · exact cause
  · exact absurd (hr.symm.trans falls) (by decide)

/-- A command word that makes VALID fall is that of RESET (R28). -/
theorem wordEffect_valid_falls {w : Word} {s : State} (hv : s.valid = true) (hf : (wordEffect w s).valid = false) :
    w = encode .reset := by
  obtain ⟨i, rfl, ran⟩ | refused := wordEffect_cases w s
  · rw [ran] at hf
    rw [effect_valid_falls hv hf]
  · rw [refused, raise_valid, hv] at hf
    exact absurd hf (by decide)

/-- Settles O44: what a command does to VALID, and of the steps without reset only one that runs a word writes it. -/
theorem validRisesAndFallsOnlyByItsCommands : Obligations.ValidRisesAndFallsOnlyByItsCommands := by
  refine ⟨fun i s t ht => ?command, fun s t ht hv hf => ?step⟩
  case command =>
    rw [exec_eq] at ht
    cases ht
    exact ⟨fun hv hr => by simpa only [rateAccepted_iff] using effect_valid_rises hv hr, effect_valid_falls⟩
  case step =>
    refine or_iff_not_imp_left.2 fun no_rst => ?_
    obtain ⟨r, rest, _, rfl⟩ | rfl | ⟨w, rest, _, queued, rfl⟩ := step_cases (Bool.eq_false_iff.2 no_rst) ht
    · exact absurd (hf.symm.trans hv) (by decide)
    · exact absurd (hf.symm.trans hv) (by decide)
    · obtain rfl := wordEffect_valid_falls (s := { s with cmdIn := rest, host := s.host.tail }) hv hf
      exact ⟨rest, queued⟩

end Sys2Proof.Machine

/-!
SUPPORT. Where a command touches BLK (R121, R31): the byte commands at the cursor of the triggered block, below RATE; and the
pairs of commands that leave one state (R125, R126, R129).
-/

namespace Sys2Proof.Machine

theorem trigger_of_pending {s : State} (h : s.cursor = s.rate) : s.trigger = s.permute := if_pos h

theorem trigger_of_not_pending {s : State} (h : s.cursor ≠ s.rate) : s.trigger = s := if_neg h

theorem padBlock_of_cursor_ne_zero {s : State} (h : s.cursor ≠ 0) : s.padBlock = s.permute := if_neg h

theorem padBlock_of_cursor_eq_zero {s : State} (h : s.cursor = 0) : s.padBlock = s := if_pos h

/-- A byte command that succeeds changes no byte of the triggered block but the one at its cursor (R120). -/
theorem read_success_of_byte {i : Instr} (hi : isByteCommand i = true) {s : State} (hw : s.blk.wf = true) {a : Nat}
    (ha : a ≠ s.trigger.cursor.toNat) : (success i s).blk.read a = s.trigger.blk.read a := by
  cases i
  case squeeze => rfl
  case absorb | encrypt | decrypt => exact (read_finishByte_trigger hw _ _ a).trans (if_neg ha)
  all_goals cases hi

/-- Every byte command is a context command (R172). -/
theorem needsContext_of_byte {i : Instr} (hi : isByteCommand i = true) : needsContext i = true := by
  cases i
  case absorb | squeeze | encrypt | decrypt => rfl
  all_goals cases hi

theorem effect_of_byte {i : Instr} (hi : isByteCommand i = true) {s : State} (hv : s.valid = true) :
    effect i s = success i s :=
  effect_of_valid (needsContext_of_byte hi) hv

/-- Where a permutation is due the context is valid, and the command's first act is to permute (R121). -/
theorem permutes_cases {i : Instr} {s : State} (h : permutes i s = true) :
    s.valid = true ∧
      ((isByteCommand i = true ∧ s.cursor = s.rate) ∨ ((i = .pad ∨ i = .sum) ∧ s.cursor ≠ 0)) := by
  cases i
  case absorb | squeeze | encrypt | decrypt | pad | sum => simpa [permutes, isByteCommand] using h
  all_goals cases h

/-- PAD and SUM leave the block of the pad (R128, R130). -/
theorem effect_blk_of_pads {i : Instr} (hi : i = .pad ∨ i = .sum) {s : State} (hv : s.valid = true) :
    (effect i s).blk = s.padBlock.blk := by
  obtain rfl | rfl := hi <;> rw [effect_of_valid rfl hv] <;> rfl

/-- A command that permutes leaves every byte but that at index 0 as the permutation left it (R121). -/
theorem read_effect_of_permutes {i : Instr} {s : State} (hw : s.blk.wf = true) (due : permutes i s = true) {a : Nat}
    (ha : a ≠ 0) : (effect i s).blk.read a = (perm Config.arx s.blk).read a := by
  obtain ⟨hv, ⟨is_byte, pending⟩ | ⟨pads, cursor_ne⟩⟩ := permutes_cases due
  · have after_trigger := trigger_of_pending pending
    rw [effect_of_byte is_byte hv, read_success_of_byte is_byte hw (by rw [after_trigger]; exact ha), after_trigger,
      permute_blk]
  · rw [effect_blk_of_pads pads hv, padBlock_of_cursor_ne_zero cursor_ne, permute_blk]

/-- A command that neither permutes nor replaces the context changes no byte but the one at CURSOR (R121). -/
theorem read_effect_of_not_permutes {i : Instr} {s : State} (hw : s.blk.wf = true) (not_due : permutes i s = false)
    (hi : replacesContext i = false) {a : Nat} (ha : a ≠ s.cursor.toNat) : (effect i s).blk.read a = s.blk.read a := by
  obtain ⟨e, _, raised⟩ | ⟨no_error, succeeded⟩ := effect_cases i s
  · rw [raised, raise_blk]
  · rw [succeeded]
    have valid := valid_of_commandError_none no_error
    cases i
    case construct | restore | reset => cases hi
    case absorb | squeeze | encrypt | decrypt =>
      have not_pending : s.cursor ≠ s.rate := by simpa [permutes, valid rfl] using not_due
      have no_trigger := trigger_of_not_pending not_pending
      rw [read_success_of_byte rfl hw (by rwa [no_trigger]), no_trigger]
    case pad | sum =>
      have cursor_zero : s.cursor = 0 := by simpa [permutes, valid rfl] using not_due
      simp only [success, respond_blk, respondBytes_blk, padBlock_of_cursor_eq_zero cursor_zero]
    case save | size | blocksize | status => rfl

/-- Settles O45: a command that permutes and one that does not, each by its own law. -/
theorem blockIsPermutedExactlyWhereDue : Obligations.BlockIsPermutedExactlyWhereDue := by
  intro i s t hw ht hcons hrestore hreset
  rw [exec_eq] at ht
  cases ht
  split
  case isTrue due => exact fun a ha => read_effect_of_permutes hw due ha
  case isFalse not_due =>
    exact fun a ha => read_effect_of_not_permutes hw (Bool.eq_false_iff.2 not_due)
      (replacesContext_eq_false hcons hrestore hreset) ha

/-- Settles O46: the triggered cursor is below RATE, so no byte at RATE or above is the one at the cursor. -/
theorem byteCommandsStayInsideTheRatePart : Obligations.ByteCommandsStayInsideTheRatePart := by
  intro i s is_byte hv live hw
  obtain ⟨rate_pos, cursor_le⟩ := live.1 hv
  have below_rate := trigger_cursor_lt rate_pos cursor_le
  refine ⟨below_rate, _, exec_eq i s, fun a ha => ?_⟩
  rw [effect_of_byte is_byte hv, read_success_of_byte is_byte hw (by omega)]

/-! ## The capacity and the responses -/

/-- The two states have the same responses, VALID, RATE and CURSOR, and the same bytes below RATE. -/
def AgreeBelowRate (t v : State) : Prop :=
  v.rspOut = t.rspOut ∧ v.valid = t.valid ∧ v.rate = t.rate ∧ v.cursor = t.cursor ∧
    ∀ a, a < t.rate.toNat → v.blk.read a = t.blk.read a

/-- The state with another block. -/
def State.withBlk (s : State) (m : Memory) : State := { s with blk := m }

/-- Bytes that agree below RATE before a write agree there after it. -/
theorem read_write_congr {m n : Memory} (hm : m.wf = true) (hn : n.wf = true) {r : Nat}
    (h : ∀ a, a < r → n.read a = m.read a) (c : Nat) (v : Byte) {a : Nat} (ha : a < r) :
    (n.write c v).read a = (m.write c v).read a := by
  rw [read_write hn, read_write hm, h a ha]

theorem firstBytes_congr {m n : Memory} {r : Nat} (h : ∀ a, a < r → n.read a = m.read a) :
    n.firstBytes r = m.firstBytes r :=
  List.map_congr_left fun a ha => h a (List.mem_range.1 ha)

section AgreeingBytes

variable {s : State} {m : Memory} (hw : s.blk.wf = true) (hm : m.wf = true)
  (agree : ∀ a, a < s.rate.toNat → m.read a = s.blk.read a)
include hw hm agree

/-- A byte command's end with one byte and one answer keeps the agreement (R31). -/
theorem agreeBelowRate_finishByte (v : Byte) (d : BitVec 16) :
    AgreeBelowRate (s.finishByte v d) ((s.withBlk m).finishByte v d) :=
  ⟨rfl, rfl, rfl, rfl, fun _ ha => read_write_congr hw hm agree _ v ha⟩

/-- Where nothing is pending a byte command reads the byte at CURSOR, which is below RATE (R31, R120). -/
theorem agreeBelowRate_success_of_byte {i : Instr} (is_byte : isByteCommand i = true) (not_pending : s.cursor ≠ s.rate)
    (below_rate : s.cursor.toNat < s.rate.toNat) : AgreeBelowRate (success i s) (success i (s.withBlk m)) := by
  have same_byte : (s.withBlk m).byteAtCursor = s.byteAtCursor := agree _ below_rate
  have no_trigger := trigger_of_not_pending not_pending
  have no_trigger' : (s.withBlk m).trigger = s.withBlk m := trigger_of_not_pending not_pending
  cases i
  case absorb | encrypt | decrypt =>
    simp only [success, no_trigger, no_trigger', same_byte]
    exact agreeBelowRate_finishByte hw hm agree _ _
  case squeeze =>
    simp only [success, no_trigger, no_trigger', same_byte]
    exact ⟨rfl, rfl, rfl, rfl, agree⟩
  all_goals cases is_byte

/-- A command that succeeds without a permutation keeps the agreement below RATE (R31, R32). -/
theorem agreeBelowRate_success {i : Instr} (no_error : commandError i s = none) (live : s.LiveInv)
    (not_due : permutes i s = false) : AgreeBelowRate (success i s) (success i (s.withBlk m)) := by
  have valid := valid_of_commandError_none no_error
  cases i
  case construct | reset | restore => exact ⟨rfl, rfl, rfl, rfl, fun _ _ => rfl⟩
  case save | size | blocksize | status => exact ⟨rfl, rfl, rfl, rfl, agree⟩
  case absorb | squeeze | encrypt | decrypt =>
    have not_pending : s.cursor ≠ s.rate := by simpa [permutes, valid rfl] using not_due
    obtain ⟨rate_pos, cursor_le⟩ := live.1 (valid rfl)
    have below_rate := trigger_of_not_pending not_pending ▸ trigger_cursor_lt rate_pos cursor_le
    exact agreeBelowRate_success_of_byte hw hm agree rfl not_pending below_rate
  case pad | sum =>
    have cursor_zero : s.cursor = 0 := by simpa [permutes, valid rfl] using not_due
    have no_pad := padBlock_of_cursor_eq_zero cursor_zero
    have no_pad' : (s.withBlk m).padBlock = s.withBlk m := padBlock_of_cursor_eq_zero cursor_zero
    have same_bytes : (s.withBlk m).blk.firstBytes (s.withBlk m).rate.toNat = s.blk.firstBytes s.rate.toNat :=
      firstBytes_congr agree
    simp only [success, no_pad, no_pad', same_bytes]
    exact ⟨rfl, rfl, rfl, rfl, agree⟩

end AgreeingBytes

/-- Settles O47: the other context is the first with another block, on which every command raises the same error or
succeeds. -/
theorem capacityIsNotExposedBetweenPermutations : Obligations.CapacityIsNotExposedBetweenPermutations := by
  intro i s u _ live hw hu ⟨u_eq, agree⟩ not_due
  have other_block : u = s.withBlk u.blk := u_eq
  have same_error : commandError i u = commandError i s := by
    rw [other_block]
    exact commandError_congr i rfl rfl
  refine ⟨_, _, exec_eq i s, exec_eq i u, ?_⟩
  obtain ⟨e, raises, raised⟩ | ⟨no_error, succeeded⟩ := effect_cases i s
  · rw [raised, effect_of_commandError (same_error.trans raises), other_block]
    exact ⟨rfl, rfl, rfl, rfl, agree⟩
  · rw [succeeded, effect_eq_success (same_error.trans no_error), other_block]
    exact agreeBelowRate_success hw hu agree no_error live not_due

/-! ## Commands that leave one state -/

/-- Settles O53: after the pad CURSOR is 0, so a second pad does nothing. -/
theorem padTwiceIsPadOnce : Obligations.PadTwiceIsPadOnce := by
  intro s hv
  have padded : effect .pad s = s.padBlock.respond .ok 0 := effect_of_valid rfl hv
  refine ⟨_, exec_eq .pad s, ?_⟩
  have still_valid : (effect .pad s).valid = true := by simpa [padded] using hv
  have cursor_zero : (effect .pad s).cursor = 0 := by simp [padded]
  rw [exec_eq, effect_of_valid rfl still_valid, success, padBlock_of_cursor_eq_zero cursor_zero]
  rfl

/-- The answer of DECRYPT, encrypted, is the ciphertext byte again (R125, R126). -/
theorem lowByte_zext16 (b : Byte) : (zext16 b).extractLsb' 0 8 = b := by
  ext j hj
  have in_data : j < 16 := by omega
  simp [zext16, BitVec.getLsbD_eq_getElem hj, in_data]

theorem xor_xor_same (a b : Byte) : a ^^^ (a ^^^ b) = b := by
  rw [← BitVec.xor_assoc, BitVec.xor_self, BitVec.zero_xor]

/-- Settles O55: both pairs write the same byte at the triggered cursor. -/
theorem encryptAbsorbAndDecryptLeaveTheSameState : Obligations.EncryptAbsorbAndDecryptLeaveTheSameState := by
  intro p c s hv
  refine ⟨⟨_, _, exec_eq _ s, exec_eq _ s, ?encrypt⟩,
    _, _, responseWord .ok (zext16 (s.trigger.byteAtCursor ^^^ c)), exec_eq _ s, ?answer, exec_eq _ s, ?decrypt⟩
  case encrypt =>
    rw [effect_of_valid rfl hv, effect_of_valid rfl hv]
    rfl
  case answer => simp [effect_of_valid (i := .decrypt c) rfl hv, success]
  case decrypt =>
    rw [responseData_responseWord, lowByte_zext16, effect_of_valid rfl hv, effect_of_valid rfl hv, success, success,
      xor_xor_same]
    rfl

end Sys2Proof.Machine

/-!
SUPPORT. Laws of command sequences: two runs from one context (R127, R156), the slot across a run (R155), permutations
counted (R121), and the commands a pseudo-operation sends (R87, R203).
-/

namespace Sys2Proof.Machine

/-! ## Operations on one live context -/

theorem sameContext_trigger {s u : State} (h : sameContext s u) : sameContext s.trigger u.trigger := by
  have ⟨hv, hr, hc, hb⟩ := h
  by_cases pending : s.cursor = s.rate
  · rw [trigger_of_pending pending, trigger_of_pending (by rw [hc, hr, pending])]
    exact ⟨hv, hr, rfl, congrArg (perm Config.arx) hb⟩
  · rwa [trigger_of_not_pending pending, trigger_of_not_pending (by rwa [hc, hr])]

theorem sameContext_padBlock {s u : State} (h : sameContext s u) : sameContext s.padBlock u.padBlock := by
  obtain ⟨hv, hr, hc, hb⟩ := h
  exact ⟨by simpa using hv, by simpa using hr, by simp, by rw [padBlock_blk, padBlock_blk, hc, hb]⟩

theorem byteAtCursor_of_sameContext {s u : State} (h : sameContext s u) : u.byteAtCursor = s.byteAtCursor := by
  obtain ⟨_, _, hc, hb⟩ := h
  rw [State.byteAtCursor, hb, hc, State.byteAtCursor]

theorem sameContext_finishByte {s u : State} (h : sameContext s u) (v : Byte) (d d' : BitVec 16) :
    sameContext (s.finishByte v d) (u.finishByte v d') := by
  obtain ⟨hv, hr, hc, hb⟩ := h
  exact ⟨hv, hr, by simp [hc], by simp [hb, hc]⟩

/-! ## Encrypting and decrypting (R125 to R127) -/

/-- The OK response that carries a byte (R80). -/
def byteResponse (b : Byte) : Word := responseWord .ok (zext16 b)

theorem dataBytes_map_byteResponse (bs : List Byte) : dataBytes (bs.map byteResponse) = bs := by
  have back (b : Byte) : (responseData (byteResponse b)).extractLsb' 0 8 = b := by
    rw [byteResponse, responseData_responseWord, lowByte_zext16]
  exact (List.map_map ..).trans (List.map_id'' back bs)

/-- From two states of one context, ENCRYPT of a byte in one and DECRYPT of its answer in the other answer each other's
operand and leave one context (R127). -/
theorem encrypt_then_decrypt (p : Byte) {s u : State} (hv : s.valid = true) (h : sameContext s u) :
    ∃ c, (effect (.encrypt p) s).rspOut = s.rspOut ++ [byteResponse c] ∧
      (effect (.decrypt c) u).rspOut = u.rspOut ++ [byteResponse p] ∧
      sameContext (effect (.encrypt p) s) (effect (.decrypt c) u) := by
  have triggered := sameContext_trigger h
  have same_byte := byteAtCursor_of_sameContext triggered
  refine ⟨s.trigger.byteAtCursor ^^^ p, ?_, ?_, ?_⟩ <;>
    simp only [effect_of_valid (i := .encrypt _) rfl hv, effect_of_valid (i := .decrypt _) rfl (h.1.trans hv), success,
      same_byte, xor_xor_same]
  · simp [byteResponse]
  · simp [byteResponse]
  · exact sameContext_finishByte triggered _ _ _

/-- ENCRYPT of every byte of a plaintext, and DECRYPT of every answer in a state of the same context (R127). -/
theorem encrypts_then_decrypts : ∀ (ps : List Byte) {s u : State}, s.valid = true → sameContext s u →
    ∃ cs : List Byte, (effects (ps.map .encrypt) s).rspOut = s.rspOut ++ cs.map byteResponse ∧
      (effects (cs.map .decrypt) u).rspOut = u.rspOut ++ ps.map byteResponse ∧
      sameContext (effects (ps.map .encrypt) s) (effects (cs.map .decrypt) u)
  | [], s, u, _, h => ⟨[], by simp, by simp, h⟩
  | p :: ps, s, u, hv, h => by
    obtain ⟨c, answered, deciphered, same⟩ := encrypt_then_decrypt p hv h
    have still_valid : (effect (.encrypt p) s).valid = true := (effect_valid_rate rfl s).1.trans hv
    obtain ⟨cs, answers, decipherment, same_end⟩ := encrypts_then_decrypts ps still_valid same
    exact ⟨c :: cs, by simp [answers, answered], by simp [decipherment, deciphered], same_end⟩

/-- Settles O48: by induction on the plaintext, the answers are the ciphertext bytes and the two contexts stay equal. -/
theorem decryptUndoesEncrypt : Obligations.DecryptUndoesEncrypt := by
  intro ps s u hv h
  obtain ⟨cs, answers, decipherment, same⟩ := encrypts_then_decrypts ps hv h
  refine ⟨_, _, runCommands_eq_effects _ s, runCommands_eq_effects _ u, ?_⟩
  rw [answers, List.drop_left, dataBytes_map_byteResponse, decipherment, List.drop_left, dataBytes_map_byteResponse]
  exact ⟨rfl, same⟩

/-! ## The slot across a run (R155, R156) -/

theorem effect_restore_of_saved {s : State} (saved : s.ckValid = true) :
    effect .restore s = s.restoreContext.respond .ok 0 := if_pos saved

/-- Settles O49: SAVE makes the slot a copy of the context, no command of the run writes the slot, and RESTORE copies it
back. -/
theorem restoreBringsBackWhatSaveKept : Obligations.RestoreBringsBackWhatSaveKept := by
  intro is s hv no_save
  refine ⟨_, runCommands_eq_effects _ s, ?_⟩
  rw [effects_cons, effects_append, effects_cons, effects_nil]
  obtain ⟨ck_valid, ck_rate, ck_cursor, ck_blk⟩ := sameSlot_effects no_save (effect .save s)
  rw [effect_of_valid rfl hv] at ck_valid ck_rate ck_cursor ck_blk ⊢
  rw [effect_restore_of_saved ck_valid]
  exact ⟨hv.symm, ck_rate, ck_cursor, ck_blk⟩

/-- From `s` to `t` and from `u` to `v` the same responses were added, and `t` and `v` have one context. -/
def AlikeSince (s u t v : State) : Prop :=
  ∃ new, t.rspOut = s.rspOut ++ new ∧ v.rspOut = u.rspOut ++ new ∧ sameContext t v

theorem AlikeSince.trans {s u t v t' v' : State} (h : AlikeSince s u t v) (h' : AlikeSince t v t' v') :
    AlikeSince s u t' v' := by
  obtain ⟨new, added, added', _⟩ := h
  obtain ⟨more, added_more, added_more', same⟩ := h'
  exact ⟨new ++ more, by simp [added_more, added], by simp [added_more', added'], same⟩

/-- ABSORB answers and leaves what the live context determines (R123). -/
theorem alikeSince_absorb (b : Byte) {s u : State} (hv : s.valid = true) (h : sameContext s u) :
    AlikeSince s u (effect (.absorb b) s) (effect (.absorb b) u) := by
  have triggered := sameContext_trigger h
  rw [effect_of_valid rfl hv, effect_of_valid rfl (h.1.trans hv), success, success,
    byteAtCursor_of_sameContext triggered]
  exact ⟨[responseWord .ok 0], by simp, by simp, sameContext_finishByte triggered _ _ _⟩

/-- SUM answers and leaves what the live context determines (R130). -/
theorem alikeSince_sum {s u : State} (hv : s.valid = true) (h : sameContext s u) :
    AlikeSince s u (effect .sum s) (effect .sum u) := by
  have padded := sameContext_padBlock h
  obtain ⟨same_valid, same_rate, _⟩ := h
  have ⟨_, _, _, same_blk⟩ := padded
  rw [effect_of_valid rfl hv, effect_of_valid rfl (same_valid.trans hv), success, success, same_blk, same_rate]
  exact ⟨(s.padBlock.blk.firstBytes s.rate.toNat).map byteResponse, by simp [byteResponse], by simp [byteResponse],
    padded⟩

/-- RESTORE answers OK and leaves what the slot determines (R151). -/
theorem alikeSince_restore {s u : State} (saved : s.ckValid = true) (h : sameSlot s u) :
    AlikeSince s u (effect .restore s) (effect .restore u) := by
  obtain ⟨same_valid, same_rate, same_cursor, same_blk⟩ := h
  rw [effect_restore_of_saved saved, effect_restore_of_saved (same_valid.trans saved)]
  exact ⟨[responseWord .ok 0], rfl, rfl, rfl, same_rate, same_cursor, same_blk⟩

/-- ABSORB of a whole message answers and leaves what the live context determines (R123). -/
theorem alikeSince_absorbs (msg : List Byte) {s u : State} (hv : s.valid = true) (h : sameContext s u) :
    AlikeSince s u (effects (msg.map .absorb) s) (effects (msg.map .absorb) u) ∧
      (effects (msg.map .absorb) s).valid = true := by
  refine effects_relation (R := fun t v => AlikeSince s u t v ∧ t.valid = true) ⟨⟨[], by simp, by simp, h⟩, hv⟩ ?_
  intro i hi t v ⟨alike, still_valid⟩
  obtain ⟨b, _, rfl⟩ := List.mem_map.1 hi
  have ⟨_, _, _, same⟩ := alike
  exact ⟨alike.trans (alikeSince_absorb b still_valid same), (effect_valid_rate rfl t).1.trans still_valid⟩

/-- The commands of AUTH_RESET and AUTHENTICATE, in order (R87). -/
theorem expand_authReset_authenticate (msg : List Byte) :
    expand .authReset ++ expand (.authenticate msg) = .restore :: (msg.map .absorb ++ [.sum]) := rfl

/-- AUTH_RESET and AUTHENTICATE answer and leave what the slot determines (R156). -/
theorem alikeSince_authenticator (msg : List Byte) {s u : State} (saved : s.ckValid = true) (h : sameSlot s u) :
    AlikeSince s u (effects (.restore :: (msg.map .absorb ++ [.sum])) s)
      (effects (.restore :: (msg.map .absorb ++ [.sum])) u) := by
  have restored := alikeSince_restore saved h
  have ⟨_, _, _, same⟩ := restored
  have now_valid : (effect .restore s).valid = true := by rw [effect_restore_of_saved saved]; rfl
  obtain ⟨absorbed, still_valid⟩ := alikeSince_absorbs msg now_valid same
  have ⟨_, _, _, same'⟩ := absorbed
  simp only [effects_cons, effects_append, effects_nil]
  exact (restored.trans absorbed).trans (alikeSince_sum still_valid same')

/-- Settles O50: the first run leaves the slot as it was, and the slot determines the answers of both. -/
theorem authenticatorGivesTheSameTagAfterReset : Obligations.AuthenticatorGivesTheSameTagAfterReset := by
  intro msg s saved
  rw [expand_authReset_authenticate]
  have no_save : ∀ i ∈ Instr.restore :: (msg.map .absorb ++ [.sum]), i ≠ .save := by
    rintro i hi rfl
    simp at hi
  obtain ⟨new, answers, answers', same⟩ := alikeSince_authenticator msg saved (sameSlot_effects no_save s)
  refine ⟨_, _, runCommands_eq_effects _ s, runCommands_eq_effects _ _, ?_, same⟩
  rw [answers', List.drop_left, answers, List.drop_left]

/-! ## A second SUM (R131) -/

/-- SUM adds the bytes of the rate part after the pad (R130). -/
theorem effect_sum_rspOut {s : State} (hv : s.valid = true) :
    (effect .sum s).rspOut = s.rspOut ++ (s.padBlock.blk.firstBytes s.rate.toNat).map byteResponse := by
  rw [effect_of_valid rfl hv, success, respondBytes_rspOut, padBlock_rspOut]
  rfl

/-- Settles O54: SUM leaves CURSOR at 0 and the commands between leave the context as it is, so the second pad does
nothing. -/
theorem sumTwiceGivesTheSameDigest : Obligations.SumTwiceGivesTheSameDigest := by
  intro qs s hv between
  refine ⟨_, _, _, exec_eq .sum s, runCommands_eq_effects qs _, exec_eq .sum _, ?_⟩
  have kept : sameContext (effect .sum s) (effects qs (effect .sum s)) := by
    refine effects_induction (P := sameContext (effect .sum s)) (sameContext_refl _) fun q hq u same => ?_
    exact same.trans (sameContext_effect_of_keepsContext (by obtain rfl | rfl | rfl | rfl := between q hq <;> rfl) u)
  obtain ⟨same_valid, same_rate, same_cursor, same_blk⟩ := kept
  have after_sum : effect .sum s = success .sum s := effect_of_valid rfl hv
  have still_valid : (effects qs (effect .sum s)).valid = true := by
    rw [same_valid, after_sum]
    simpa [success] using hv
  have cursor_zero : (effects qs (effect .sum s)).cursor = 0 := by
    rw [same_cursor, after_sum]
    simp [success]
  rw [effect_sum_rspOut still_valid, List.drop_left, padBlock_of_cursor_eq_zero cursor_zero, same_blk, same_rate,
    effect_sum_rspOut hv, List.drop_left]
  simp [after_sum, success]

/-! ## Permutations counted (R121) -/

theorem permutationCount_cons (i : Instr) (is : List Instr) (s : State) :
    permutationCount (i :: is) s = (if permutes i s then 1 else 0) + permutationCount is (effect i s) := by
  rw [permutationCount, exec_eq]

/-- A byte command advances the triggered cursor (R123 to R126). -/
theorem effect_cursor_of_byte {i : Instr} (hi : isByteCommand i = true) {s : State} (hv : s.valid = true) :
    (effect i s).cursor = s.trigger.cursor + 1 := by
  rw [effect_of_byte hi hv]
  cases i
  case absorb | squeeze | encrypt | decrypt => rfl
  all_goals cases hi

theorem permutes_of_byte {i : Instr} (hi : isByteCommand i = true) {s : State} (hv : s.valid = true) :
    permutes i s = decide (s.cursor = s.rate) := by
  cases i
  case absorb | squeeze | encrypt | decrypt => simp [permutes, hv]
  all_goals cases hi

theorem replacesContext_of_byte {i : Instr} (hi : isByteCommand i = true) : replacesContext i = false := by
  cases i
  case absorb | squeeze | encrypt | decrypt => rfl
  all_goals cases hi

/-- A full rate and `n + 1` bytes more fill the rate once more often than 1 byte and `n` more. -/
theorem count_of_full_rate (n : Nat) {r : Nat} (hr : 1 ≤ r) :
    (r + (n + 1) + r - 1) / r - 1 = 1 + ((1 + n + r - 1) / r - 1) := by
  have two_rates : (r + (n + 1) + r - 1) / r = n / r + 1 + 1 := by
    rw [← Nat.add_div_right n hr, ← Nat.add_div_right (n + r) hr]
    congr 1
    omega
  have one_rate : (1 + n + r - 1) / r = n / r + 1 := by
    rw [← Nat.add_div_right n hr]
    congr 1
    omega
  rw [two_rates, one_rate, Nat.add_sub_cancel, Nat.add_sub_cancel, Nat.add_comm]

/-- With CURSOR at `c` of RATE `r`, `n` byte commands permute as often as the `c + n` bytes fill the rate, but for the last
(R121). -/
theorem permutationCount_of_bytes : ∀ (is : List Instr) {s : State}, (∀ i ∈ is, isByteCommand i = true) →
    s.valid = true → 1 ≤ s.rate.toNat → s.cursor.toNat ≤ s.rate.toNat →
    permutationCount is s = (s.cursor.toNat + is.length + s.rate.toNat - 1) / s.rate.toNat - 1
  | [], s, _, _, rate_pos, cursor_le => by
    have below_two : (s.cursor.toNat + 0 + s.rate.toNat - 1) / s.rate.toNat < 2 := by
      rw [Nat.div_lt_iff_lt_mul rate_pos]
      omega
    rw [permutationCount, List.length_nil]
    omega
  | i :: is, s, bytes, hv, rate_pos, cursor_le => by
    obtain ⟨is_byte, rest_bytes⟩ := List.forall_mem_cons.1 bytes
    obtain ⟨same_valid, same_rate⟩ := effect_valid_rate (replacesContext_of_byte is_byte) s
    have below_rate := trigger_cursor_lt rate_pos cursor_le
    have advanced : (effect i s).cursor.toNat = s.trigger.cursor.toNat + 1 := by
      rw [effect_cursor_of_byte is_byte hv, toNat_cursor_add_one below_rate]
    have count_rest := permutationCount_of_bytes is rest_bytes (same_valid.trans hv) (by rwa [same_rate])
      (by rwa [same_rate, advanced])
    rw [permutationCount_cons, permutes_of_byte is_byte hv, count_rest, same_rate, advanced, List.length_cons]
    by_cases pending : s.cursor = s.rate
    case pos =>
      rw [if_pos (by simpa using pending), trigger_of_pending pending, permute_cursor, pending]
      exact (count_of_full_rate is.length rate_pos).symm
    case neg =>
      rw [trigger_of_not_pending pending, if_neg (by simpa using pending), zero_add, Nat.add_assoc _ 1, Nat.add_comm 1]

/-- Settles O52: CONSTRUCT leaves CURSOR at 0. -/
theorem byteStreamPermutesOncePerFilledRate : Obligations.ByteStreamPermutesOncePerFilledRate := by
  intro rate s rate_pos rate_le
  have accepted : rateAccepted rate = true := rateAccepted_iff.2 ⟨rate_pos, rate_le⟩
  have constructed : effect (.construct rate) s = success (.construct rate) s :=
    effect_eq_success (by simp [commandError, accepted])
  refine ⟨success (.construct rate) s, by rw [exec_eq, constructed], fun is bytes => ?_⟩
  have same_rate : (success (.construct rate) s).rate.toNat = rate.toNat := toNat_rateRegister accepted
  have count := permutationCount_of_bytes is (s := success (.construct rate) s) bytes rfl (by rwa [same_rate])
    (Nat.zero_le _)
  rw [count, same_rate]
  simp [success]

/-! ## Pseudo-operations (R87, R203) -/

/-- Settles O57: the expansions are maps over the first `dstLen` bytes. -/
theorem bufferFormsStopAtTheShorterLength : Obligations.BufferFormsStopAtTheShorterLength := by
  intro dstLen src
  have byte_at {k : Nat} (hk : k < dstLen) (f : Byte → Instr) : ((src.take dstLen).map f)[k]? = src[k]?.map f := by
    rw [List.getElem?_map, List.getElem?_take_of_lt hk]
  have length_eq (f : Byte → Instr) : ((src.take dstLen).map f).length = min dstLen src.length := by
    rw [List.length_map, List.length_take]
  exact ⟨length_eq _, length_eq _, fun _ hk => byte_at hk _, fun _ hk => byte_at hk _, rfl, rfl⟩

/-- After OK responses alone the host sends its next command (R203). -/
theorem sendUntilError_cons_of_ok {i : Instr} {s : State} (h : AnswersOk s (effect i s)) (rest : List Instr) :
    sendUntilError (i :: rest) s = sendUntilError rest (effect i s) := by
  obtain ⟨new, answers, all_ok⟩ := h
  have no_error : ((effect i s).rspOut.drop s.rspOut.length).any isErrorResponse = false := by
    rw [answers, List.drop_left]
    exact List.any_eq_false.2 fun r hr => by simp [isErrorResponse, all_ok r hr]
  simp only [sendUntilError, exec_eq, no_error, Bool.false_eq_true, if_false]

/-- After an error response the host sends nothing more (R203). -/
theorem sendUntilError_cons_of_error {i : Instr} {s : State} {e : ErrorKind} (h : commandError i s = some e)
    (rest : List Instr) : sendUntilError (i :: rest) s = exec i s := by
  have error_response : isErrorResponse (responseWord (.error e) (e.data (encode i))) = true := by
    simpa [isErrorResponse, Status.code] using e.code_ne_zero
  simp [sendUntilError, exec_eq, effect_of_commandError h, error_response]

/-- The state with another block and cursor and `n` more OK responses of DATA 0: what ABSORBs leave. -/
def State.absorbed (s : State) (m : Memory) (c : BitVec 8) (n : Nat) : State :=
  { s with blk := m, cursor := c, rspOut := s.rspOut ++ List.replicate n 0x00000000 }

theorem absorbed_absorbed (s : State) (m m' : Memory) (c c' : BitVec 8) (n n' : Nat) :
    (s.absorbed m c n).absorbed m' c' n' = s.absorbed m' c' (n + n') := by
  simp [State.absorbed]

/-- ABSORB changes BLK and CURSOR and answers OK (R123). -/
theorem exists_effect_absorb_eq (b : Byte) {s : State} (hv : s.valid = true) :
    ∃ m c, effect (.absorb b) s = s.absorbed m c 1 := by
  refine ⟨(effect (.absorb b) s).blk, s.trigger.cursor + 1, ?_⟩
  rw [effect_of_valid rfl hv]
  exact finishByte_trigger_eq s _ 0

/-- A host sends every ABSORB of a key, which change BLK and CURSOR and answer OK (R123). -/
theorem sendUntilError_absorbs : ∀ (key : List Byte) {s : State} (rest : List Instr), s.valid = true →
    ∃ m c, effects (key.map .absorb) s = s.absorbed m c key.length ∧
      sendUntilError (key.map .absorb ++ rest) s = sendUntilError rest (s.absorbed m c key.length)
  | [], s, rest, _ => ⟨s.blk, s.cursor, by simp [State.absorbed], by simp [State.absorbed]⟩
  | b :: key, s, rest, hv => by
    obtain ⟨m, c, absorbed⟩ := exists_effect_absorb_eq b hv
    have answers_ok : AnswersOk s (effect (.absorb b) s) := effect_of_commandError_none (if_pos hv)
    have still_valid : (s.absorbed m c 1).valid = true := hv
    obtain ⟨m', c', run, sent⟩ := sendUntilError_absorbs key rest still_valid
    rw [absorbed_absorbed, Nat.add_comm] at run sent
    refine ⟨m', c', ?_, ?_⟩
    · rw [List.map_cons, effects_cons, absorbed, run, List.length_cons]
    · rw [List.map_cons, List.cons_append, sendUntilError_cons_of_ok answers_ok, absorbed, sent, List.length_cons]

/-- Settles O56: an accepted CONSTRUCT, the ABSORBs and the SAVE all answer OK, so the host sends them all; a refused
CONSTRUCT is the last. -/
theorem authInitSavesTheKeyedContextOrStops : Obligations.AuthInitSavesTheKeyedContextOrStops := by
  intro rate key s
  have sends : runPseudo (.authInit rate key) s = sendUntilError (.construct rate :: (key.map .absorb ++ [.save])) s := rfl
  split
  case isTrue bounds =>
    have accepted : rateAccepted rate = true := rateAccepted_iff.2 bounds
    have no_error : commandError (.construct rate) s = none := by simp [commandError, accepted]
    have constructed := effect_eq_success no_error
    obtain ⟨m, c, run, sent⟩ := sendUntilError_absorbs key (s := success (.construct rate) s) [.save] rfl
    have saves : AnswersOk _ (effect .save ((success (.construct rate) s).absorbed m c key.length)) :=
      effect_of_commandError_none rfl
    refine ⟨effect .save ((success (.construct rate) s).absorbed m c key.length),
      (success (.construct rate) s).absorbed m c key.length, ?sent, ?keyed, rfl, toNat_rateRegister accepted, ?next⟩
    case sent =>
      rw [sends, sendUntilError_cons_of_ok (effect_of_commandError_none no_error), constructed, sent,
        sendUntilError_cons_of_ok saves, sendUntilError]
    case keyed => rw [runCommands_eq_effects, effects_cons, constructed, run]
    case next =>
      have responses : s.rspOut ++ [0] ++ List.replicate key.length 0 ++ [0] =
          s.rspOut ++ List.replicate (key.length + 2) (0 : Word) := by
        rw [List.replicate_succ', List.replicate_succ]
        simp
      rw [effect_of_valid rfl rfl, ← responses]
      rfl
  case isFalse refused =>
    have raises : commandError (.construct rate) s = some .configError := by
      simp [commandError, Bool.eq_false_iff.2 (mt rateAccepted_iff.1 refused)]
    rw [sends, sendUntilError_cons_of_error raises]

end Sys2Proof.Machine

/-!
SUPPORT. Pending permutations (R40, R41): a permutation carried out early, in the live context or in the slot, cannot be told
from a pending one; and the machine of Reading B, which carries each out at once.
-/

namespace Sys2Proof.Machine

/-- A valid context and a valid slot have a rate above 0 (I1 and I3 of R42). -/
def RatesPositive (s : State) : Prop :=
  (s.valid = true → s.rate ≠ 0) ∧ (s.ckValid = true → s.ckRate ≠ 0)

theorem ne_zero_of_one_le_toNat {r : BitVec 8} (h : 1 ≤ r.toNat) : r ≠ 0 := by
  rintro rfl
  exact absurd h (by decide)

theorem ratesPositive_of_inv {s : State} (h : s.Inv) : RatesPositive s := by
  obtain ⟨live, slot, _⟩ := h
  exact ⟨fun hv => ne_zero_of_one_le_toNat (live.1 hv).1, fun saved => ne_zero_of_one_le_toNat (slot.1 saved).1⟩

/-- The state with a pending permutation of the live context carried out. -/
def State.settleLive (s : State) : State :=
  if s.valid = true ∧ s.cursor = s.rate then s.permute else s

/-- The permutation of the block in the slot. -/
def State.permuteSlot (s : State) : State :=
  { s with ckBlk := perm Config.arx s.ckBlk, ckCursor := 0 }

/-- The state with a pending permutation of the slot carried out. -/
def State.settleSlot (s : State) : State :=
  if s.ckValid = true ∧ s.ckCursor = s.ckRate then s.permuteSlot else s

/-- Settling is settling the live context, then the slot. -/
theorem settled_eq (s : State) : s.settled = s.settleLive.settleSlot := by
  by_cases live : s.valid = true ∧ s.cursor = s.rate <;> by_cases slot : s.ckValid = true ∧ s.ckCursor = s.ckRate <;>
    simp [State.settled, State.settleLive, State.settleSlot, State.permuteSlot, State.permute, live, slot]

/-- The permutation carried out on a live context where it was pending is not seen once both have settled (R41). -/
theorem settled_permute {s : State} (hv : s.valid = true) (pending : s.cursor = s.rate) (hr : s.rate ≠ 0) :
    s.permute.settled = s.settled := by
  have not_again : ¬(0#8 = s.rate) := hr.symm
  simp [State.settled, State.permute, hv, pending, not_again]

/-- The permutation carried out on a slot where it was pending is not seen once both have settled (R41). -/
theorem settled_permuteSlot {s : State} (saved : s.ckValid = true) (pending : s.ckCursor = s.ckRate)
    (hr : s.ckRate ≠ 0) : s.permuteSlot.settled = s.settled := by
  have not_again : ¬(0#8 = s.ckRate) := hr.symm
  simp [State.settled, State.permuteSlot, saved, pending, not_again]

/-! ## A permutation of the live context carried out early -/

/-- A command that succeeds leaves, once settled, the same state whether the pending permutation of the live context has run
or not (R41). -/
theorem settled_success_permute (i : Instr) {s : State} (hv : s.valid = true) (pending : s.cursor = s.rate)
    (hr : s.rate ≠ 0) : (success i s.permute).settled = (success i s).settled := by
  cases i
  case absorb | squeeze | encrypt | decrypt =>
    have triggered : s.permute.trigger = s.trigger := by
      rw [← trigger_of_pending pending, trigger_trigger hr]
    simp only [success, triggered]
  case pad | sum =>
    have padded : s.permute.padBlock = s.padBlock := by
      rw [padBlock_of_cursor_eq_zero (permute_cursor s), padBlock_of_cursor_ne_zero (pending ▸ hr)]
    simp only [success, padded, permute_rate]
  case construct | reset | restore => rfl
  case save =>
    have not_again : ¬(0#8 = s.rate) := hr.symm
    simp [success, State.settled, hv, pending, not_again]
  case size | blocksize | status => exact settled_permute (s := s.respond .ok _) hv pending hr

/-- A command leaves, once settled, the same state whether the live context was settled before it or not (R41). -/
theorem settled_effect_settleLive (i : Instr) {s : State} (positive : RatesPositive s) :
    (effect i s.settleLive).settled = (effect i s).settled := by
  by_cases due : s.valid = true ∧ s.cursor = s.rate
  · have ⟨hv, pending⟩ := due
    have hr := positive.1 hv
    have same_error : commandError i s.permute = commandError i s := commandError_congr i rfl rfl
    rw [State.settleLive, if_pos due]
    obtain ⟨e, raises, raised⟩ | ⟨no_error, succeeded⟩ := effect_cases i s
    · rw [raised, effect_of_commandError (same_error.trans raises)]
      exact settled_permute (s := s.raise e _) hv pending hr
    · rw [succeeded, effect_eq_success (same_error.trans no_error)]
      exact settled_success_permute i hv pending hr
  · rw [State.settleLive, if_neg due]

/-! ## A permutation of the slot carried out early -/

theorem trigger_permuteSlot (s : State) : s.permuteSlot.trigger = s.trigger.permuteSlot :=
  (apply_ite State.permuteSlot (s.cursor = s.rate) s.permute s).symm

theorem padBlock_permuteSlot (s : State) : s.permuteSlot.padBlock = s.padBlock.permuteSlot :=
  (apply_ite State.permuteSlot (s.cursor = 0) s s.permute).symm

/-- A command that neither writes nor reads the slot commutes with its permutation. -/
theorem success_permuteSlot {i : Instr} (not_save : i ≠ .save) (not_restore : i ≠ .restore) (s : State) :
    success i s.permuteSlot = (success i s).permuteSlot := by
  cases i
  case save => exact absurd rfl not_save
  case restore => exact absurd rfl not_restore
  case absorb | squeeze | encrypt | decrypt =>
    simp only [success, trigger_permuteSlot]
    rfl
  case pad | sum =>
    simp only [success, padBlock_permuteSlot]
    rfl
  all_goals rfl

/-- A command that succeeds leaves, once settled, the same state whether the pending permutation of the slot has run or not
(R41). -/
theorem settled_success_permuteSlot (i : Instr) {s : State} (saved : s.ckValid = true) (pending : s.ckCursor = s.ckRate)
    (hr : s.ckRate ≠ 0) : (success i s.permuteSlot).settled = (success i s).settled := by
  by_cases saves : i = .save
  · subst saves
    rfl
  by_cases restores : i = .restore
  · subst restores
    have not_again : ¬(0#8 = s.ckRate) := hr.symm
    simp [success, State.settled, State.permuteSlot, saved, pending, not_again]
  · obtain ⟨ck_valid, ck_rate, ck_cursor, _⟩ := sameSlot_success saves s
    rw [success_permuteSlot saves restores,
      settled_permuteSlot (ck_valid.trans saved) (by rw [ck_cursor, ck_rate, pending]) (by rwa [ck_rate])]

/-- A command leaves, once settled, the same state whether the slot was settled before it or not (R41). -/
theorem settled_effect_settleSlot (i : Instr) {s : State} (positive : s.ckValid = true → s.ckRate ≠ 0) :
    (effect i s.settleSlot).settled = (effect i s).settled := by
  by_cases due : s.ckValid = true ∧ s.ckCursor = s.ckRate
  · have ⟨saved, pending⟩ := due
    have hr := positive saved
    have same_error : commandError i s.permuteSlot = commandError i s := commandError_congr i rfl rfl
    rw [State.settleSlot, if_pos due]
    obtain ⟨e, raises, raised⟩ | ⟨no_error, succeeded⟩ := effect_cases i s
    · rw [raised, effect_of_commandError (same_error.trans raises)]
      exact settled_permuteSlot (s := s.raise e _) saved pending hr
    · rw [succeeded, effect_eq_success (same_error.trans no_error)]
      exact settled_success_permuteSlot i saved pending hr
  · rw [State.settleSlot, if_neg due]

/-! ## Commands on settled states -/

/-- Settling the live context leaves the slot as it is. -/
theorem sameSlot_settleLive (s : State) : sameSlot s s.settleLive := by
  unfold State.settleLive
  split <;> exact sameSlot_refl s

/-- A command leaves, once settled, the same state whether the state was settled before it or not (R41). -/
theorem settled_effect_settled (i : Instr) {s : State} (positive : RatesPositive s) :
    (effect i s.settled).settled = (effect i s).settled := by
  obtain ⟨same_valid, same_rate, _⟩ := sameSlot_settleLive s
  rw [settled_eq s, settled_effect_settleSlot i (by rw [same_valid, same_rate]; exact positive.2),
    settled_effect_settleLive i positive]

/-- Settles O51: of each command the settled outcome is a function of the settled state, and the invariant goes on. -/
theorem pendingAndDonePermutationsAreIndistinguishable :
    Obligations.PendingAndDonePermutationsAreIndistinguishable := by
  intro is s u hs hu same
  refine ⟨_, _, runCommands_eq_effects is s, runCommands_eq_effects is u, ?_⟩
  have same_end : (effects is s).Inv ∧ (effects is u).Inv ∧ sameToHost (effects is s) (effects is u) := by
    refine effects_relation (R := fun t v => t.Inv ∧ v.Inv ∧ sameToHost t v) ⟨hs, hu, same⟩ ?_
    intro i _ t v ⟨ht, hv, same_settled⟩
    refine ⟨inv_effect i ht, inv_effect i hv, ?_⟩
    calc (effect i t).settled = (effect i t.settled).settled :=
          (settled_effect_settled i (ratesPositive_of_inv ht)).symm
      _ = (effect i v.settled).settled := by rw [same_settled]
      _ = (effect i v).settled := settled_effect_settled i (ratesPositive_of_inv hv)
  obtain ⟨_, _, settled_end⟩ := same_end
  have same_responses : (effects is s).settled.rspOut = (effects is u).settled.rspOut := congrArg _ settled_end
  exact ⟨same_responses, settled_end⟩

/-! ## Reading B -/

/-- No permutation is pending, in the live context or in the slot (R40). -/
def NothingPending (s : State) : Prop :=
  (s.valid = true → s.cursor ≠ s.rate) ∧ (s.ckValid = true → s.ckCursor ≠ s.ckRate)

theorem settleSlot_of_not_pending {s : State} (h : s.ckValid = true → s.ckCursor ≠ s.ckRate) : s.settleSlot = s :=
  if_neg (not_and.2 h)

theorem settled_of_nothingPending {s : State} (h : NothingPending s) : s.settled = s := by
  obtain ⟨live, slot⟩ := h
  rw [settled_eq, State.settleLive, if_neg (not_and.2 live), settleSlot_of_not_pending slot]

theorem nothingPending_settled {s : State} (positive : RatesPositive s) : NothingPending s.settled := by
  obtain ⟨live, slot⟩ := positive
  constructor
  · intro hv
    have not_again : ¬(0#8 = s.rate) := (live hv).symm
    by_cases pending : s.cursor = s.rate <;> simp_all [State.settled]
  · intro saved
    have not_again : ¬(0#8 = s.ckRate) := (slot saved).symm
    by_cases pending : s.ckCursor = s.ckRate <;> simp_all [State.settled]

/-- With nothing pending in the slot, the trigger check of a valid context settles the state. -/
theorem trigger_eq_settled {s : State} (hv : s.valid = true) (slot : s.ckValid = true → s.ckCursor ≠ s.ckRate) :
    s.trigger = s.settled := by
  obtain ⟨pending, e⟩ | ⟨not_pending, e⟩ := trigger_cases s
  · rw [e, settled_eq, State.settleLive, if_pos ⟨hv, pending⟩]
    exact (settleSlot_of_not_pending (s := s.permute) slot).symm
  · rw [e, settled_of_nothingPending ⟨fun _ => not_pending, slot⟩]

/-- A command that succeeds leaves no permutation pending in the live context, unless it is a byte command (R40). -/
theorem success_not_pending {i : Instr} {s : State} (no_error : commandError i s = none) (h : NothingPending s)
    (positive : RatesPositive s) (not_byte : isByteCommand i = false) (hv : (success i s).valid = true) :
    (success i s).cursor ≠ (success i s).rate := by
  obtain ⟨live, slot⟩ := h
  have valid := valid_of_commandError_none no_error
  cases i
  case construct rate =>
    have accepted : rateAccepted rate = true := by simpa [commandError] using no_error
    have rate_pos : 1 ≤ (rateRegister rate).toNat := toNat_rateRegister accepted ▸ (rateAccepted_iff.1 accepted).1
    exact (ne_zero_of_one_le_toNat rate_pos).symm
  case pad | sum => simpa [success] using (positive.1 (valid rfl)).symm
  case reset => cases hv
  case restore => exact slot (by simpa [commandError] using no_error)
  case save | size | blocksize => exact live (valid rfl)
  case status => exact live hv
  all_goals cases not_byte

/-- A command that is no byte command on a valid context leaves nothing pending where nothing was (R40). -/
theorem nothingPending_effect {i : Instr} {s : State} (h : NothingPending s) (positive : RatesPositive s)
    (not_byte : isByteCommand i = false) : NothingPending (effect i s) := by
  obtain ⟨e, _, raised⟩ | ⟨no_error, succeeded⟩ := effect_cases i s
  · exact raised ▸ h
  · rw [succeeded]
    refine ⟨success_not_pending no_error h positive not_byte, fun saved => ?_⟩
    by_cases saves : i = .save
    · subst saves
      exact h.1 (valid_of_commandError_none no_error rfl)
    · obtain ⟨ck_valid, ck_rate, ck_cursor, _⟩ := succeeded ▸ sameSlot_effect saves s
      rw [ck_cursor, ck_rate]
      exact h.2 (ck_valid ▸ saved)

/-- On a settled state a byte command under Reading B leaves the settled outcome of Reading A (R41). -/
theorem execReadingB_of_byte_settled {i : Instr} (is_byte : isByteCommand i = true) {s : State} (hv : s.valid = true)
    (h : NothingPending s) : execReadingB i s = .next (effect i s).settled := by
  have not_save : i ≠ .save := by
    rintro rfl
    cases is_byte
  obtain ⟨ck_valid, ck_rate, ck_cursor, _⟩ := sameSlot_effect not_save s
  have still_valid : (effect i s).valid = true := (effect_valid_rate (replacesContext_of_byte is_byte) s).1.trans hv
  rw [execReadingB_of_byte is_byte hv (h.1 hv),
    trigger_eq_settled still_valid (by rw [ck_valid, ck_cursor, ck_rate]; exact h.2)]

/-- On a settled state every command under Reading B leaves the settled outcome of Reading A (R41). -/
theorem execReadingB_of_nothingPending (i : Instr) {s : State} (h : NothingPending s) (positive : RatesPositive s) :
    execReadingB i s = .next (effect i s).settled := by
  cases is_byte : isByteCommand i with
  | false =>
    rw [execReadingB_of_not_byte is_byte, exec_eq, settled_of_nothingPending (nothingPending_effect h positive is_byte)]
  | true =>
    cases hv : s.valid with
    | true => exact execReadingB_of_byte_settled is_byte hv h
    | false =>
      have raised := effect_of_invalid (needsContext_of_byte is_byte) hv
      have still_nothing : NothingPending (effect i s) := raised ▸ h
      rw [execReadingB_of_invalid i hv, exec_eq, settled_of_nothingPending still_nothing]

/-- Settling leaves VALID, RATE and their copies in the slot as they are. -/
theorem ratesPositive_settled {s : State} (h : RatesPositive s) : RatesPositive s.settled := h

/-- A run under Reading B from a settled state ends in the settled state of the run under Reading A (R41). -/
theorem runReadingB_settled : ∀ (is : List Instr) {s : State}, s.Inv →
    runReadingB is s.settled = .next (effects is s).settled
  | [], _, _ => rfl
  | i :: is, s, h => by
    have positive := ratesPositive_of_inv h
    have one_step : execReadingB i s.settled = .next (effect i s).settled := by
      rw [execReadingB_of_nothingPending i (nothingPending_settled positive) (ratesPositive_settled positive),
        settled_effect_settled i positive]
    simp only [runReadingB, one_step, effects_cons]
    exact runReadingB_settled is (inv_effect i h)

/-- Settles O58: Reading B keeps the state settled, and settling changes no response. -/
theorem processThenCheckGivesTheSameResponses : Obligations.ProcessThenCheckGivesTheSameResponses :=
  fun is s h => ⟨_, _, runCommands_eq_effects is s, runReadingB_settled is h, rfl, rfl⟩

end Sys2Proof.Machine
